-- ==== Sys2Proof/Word.lean ====
section
/-! DEFINITION. The widths of the core's data: 64-bit values and addresses, 32-bit instruction words and
word slices, bytes, 5-bit register fields and 12-bit CSR addresses (00_scope.md R9, R15; 30_encoding.md R68, R69). -/

namespace Sys2Proof

/-- A 64-bit register value or address (XLEN = 64). -/
abbrev Word := BitVec 64

/-- The low 32 bits of a register, on which the word-sliced instructions compute. -/
abbrev Slice := BitVec 32

/-- One 32-bit instruction word. -/
abbrev InstWord := BitVec 32

/-- One byte of Memory. -/
abbrev Byte := BitVec 8

/-- A register field of an instruction: 5 bits, so 0 to 31 and never out of range (10_state.md R24). -/
abbrev RegIx := BitVec 5

/-- A CSR address. -/
abbrev CsrAddr := BitVec 12

end Sys2Proof
end

