-- ==== Sys2Proof/Syntax.lean ====
section
/-! DEFINITION. The instruction set as syntax: one constructor per row of spec/opcode_table.json, in the table's
order, with the operands the row's fields give (00_scope.md R3; 30_encoding.md R68 to R77). Operands stand in the
order of the assembler syntax (30_encoding.md R83). `imm` of a branch or of `jal` is the byte offset, whose bit 0 a
decoded word always gives as 0 (WellFormed.lean). -/

namespace Sys2Proof

/-- The 64 instructions of the core. -/
inductive Instr where
  /-- `lb rd, imm(rs1)` (R86). -/
  | lb (rd rs1 : RegIx) (imm : BitVec 12)
  /-- `lh rd, imm(rs1)` (R87). -/
  | lh (rd rs1 : RegIx) (imm : BitVec 12)
  /-- `lw rd, imm(rs1)` (R88). -/
  | lw (rd rs1 : RegIx) (imm : BitVec 12)
  /-- `ld rd, imm(rs1)` (R89). -/
  | ld (rd rs1 : RegIx) (imm : BitVec 12)
  /-- `lbu rd, imm(rs1)` (R90). -/
  | lbu (rd rs1 : RegIx) (imm : BitVec 12)
  /-- `lhu rd, imm(rs1)` (R91). -/
  | lhu (rd rs1 : RegIx) (imm : BitVec 12)
  /-- `lwu rd, imm(rs1)` (R92). -/
  | lwu (rd rs1 : RegIx) (imm : BitVec 12)
  /-- `addi rd, rs1, imm` (R95). -/
  | addi (rd rs1 : RegIx) (imm : BitVec 12)
  /-- `slti rd, rs1, imm` (R96). -/
  | slti (rd rs1 : RegIx) (imm : BitVec 12)
  /-- `sltiu rd, rs1, imm` (R97). -/
  | sltiu (rd rs1 : RegIx) (imm : BitVec 12)
  /-- `xori rd, rs1, imm` (R98). -/
  | xori (rd rs1 : RegIx) (imm : BitVec 12)
  /-- `ori rd, rs1, imm` (R99). -/
  | ori (rd rs1 : RegIx) (imm : BitVec 12)
  /-- `andi rd, rs1, imm` (R100). -/
  | andi (rd rs1 : RegIx) (imm : BitVec 12)
  /-- `slli rd, rs1, shamt` (R101). -/
  | slli (rd rs1 : RegIx) (shamt : BitVec 6)
  /-- `srli rd, rs1, shamt` (R102). -/
  | srli (rd rs1 : RegIx) (shamt : BitVec 6)
  /-- `srai rd, rs1, shamt` (R103). -/
  | srai (rd rs1 : RegIx) (shamt : BitVec 6)
  /-- `addiw rd, rs1, imm` (R104). -/
  | addiw (rd rs1 : RegIx) (imm : BitVec 12)
  /-- `slliw rd, rs1, shamt` (R105). -/
  | slliw (rd rs1 : RegIx) (shamt : BitVec 5)
  /-- `srliw rd, rs1, shamt` (R106). -/
  | srliw (rd rs1 : RegIx) (shamt : BitVec 5)
  /-- `sraiw rd, rs1, shamt` (R107). -/
  | sraiw (rd rs1 : RegIx) (shamt : BitVec 5)
  /-- `auipc rd, imm20` (R108). -/
  | auipc (rd : RegIx) (imm20 : BitVec 20)
  /-- `lui rd, imm20` (R109). -/
  | lui (rd : RegIx) (imm20 : BitVec 20)
  /-- `sb rs2, imm(rs1)` (R111). -/
  | sb (rs2 rs1 : RegIx) (imm : BitVec 12)
  /-- `sh rs2, imm(rs1)` (R112). -/
  | sh (rs2 rs1 : RegIx) (imm : BitVec 12)
  /-- `sw rs2, imm(rs1)` (R113). -/
  | sw (rs2 rs1 : RegIx) (imm : BitVec 12)
  /-- `sd rs2, imm(rs1)` (R114). -/
  | sd (rs2 rs1 : RegIx) (imm : BitVec 12)
  /-- `amoadd.w rd, rs2, (rs1)` (R116). -/
  | amoaddW (rd rs2 rs1 : RegIx) (aq rl : Bool)
  /-- `amoswap.w rd, rs2, (rs1)` (R117). -/
  | amoswapW (rd rs2 rs1 : RegIx) (aq rl : Bool)
  /-- `amoadd.d rd, rs2, (rs1)` (R118). -/
  | amoaddD (rd rs2 rs1 : RegIx) (aq rl : Bool)
  /-- `amoswap.d rd, rs2, (rs1)` (R119). -/
  | amoswapD (rd rs2 rs1 : RegIx) (aq rl : Bool)
  /-- `add rd, rs1, rs2` (R120). -/
  | add (rd rs1 rs2 : RegIx)
  /-- `sub rd, rs1, rs2` (R121). -/
  | sub (rd rs1 rs2 : RegIx)
  /-- `mul rd, rs1, rs2` (R122). -/
  | mul (rd rs1 rs2 : RegIx)
  /-- `sll rd, rs1, rs2` (R123). -/
  | sll (rd rs1 rs2 : RegIx)
  /-- `slt rd, rs1, rs2` (R124). -/
  | slt (rd rs1 rs2 : RegIx)
  /-- `sltu rd, rs1, rs2` (R125). -/
  | sltu (rd rs1 rs2 : RegIx)
  /-- `xor rd, rs1, rs2` (R126). -/
  | xor (rd rs1 rs2 : RegIx)
  /-- `srl rd, rs1, rs2` (R127). -/
  | srl (rd rs1 rs2 : RegIx)
  /-- `sra rd, rs1, rs2` (R128). -/
  | sra (rd rs1 rs2 : RegIx)
  /-- `or rd, rs1, rs2` (R129). -/
  | or (rd rs1 rs2 : RegIx)
  /-- `and rd, rs1, rs2` (R130). -/
  | and (rd rs1 rs2 : RegIx)
  /-- `addw rd, rs1, rs2` (R131). -/
  | addw (rd rs1 rs2 : RegIx)
  /-- `subw rd, rs1, rs2` (R132). -/
  | subw (rd rs1 rs2 : RegIx)
  /-- `mulw rd, rs1, rs2` (R133). -/
  | mulw (rd rs1 rs2 : RegIx)
  /-- `sllw rd, rs1, rs2` (R134). -/
  | sllw (rd rs1 rs2 : RegIx)
  /-- `srlw rd, rs1, rs2` (R135). -/
  | srlw (rd rs1 rs2 : RegIx)
  /-- `sraw rd, rs1, rs2` (R136). -/
  | sraw (rd rs1 rs2 : RegIx)
  /-- `beq rs1, rs2, offset` (R138). -/
  | beq (rs1 rs2 : RegIx) (imm : BitVec 13)
  /-- `bne rs1, rs2, offset` (R139). -/
  | bne (rs1 rs2 : RegIx) (imm : BitVec 13)
  /-- `blt rs1, rs2, offset` (R140). -/
  | blt (rs1 rs2 : RegIx) (imm : BitVec 13)
  /-- `bge rs1, rs2, offset` (R141). -/
  | bge (rs1 rs2 : RegIx) (imm : BitVec 13)
  /-- `bltu rs1, rs2, offset` (R142). -/
  | bltu (rs1 rs2 : RegIx) (imm : BitVec 13)
  /-- `bgeu rs1, rs2, offset` (R143). -/
  | bgeu (rs1 rs2 : RegIx) (imm : BitVec 13)
  /-- `jalr rd, imm(rs1)` (R144). -/
  | jalr (rd rs1 : RegIx) (imm : BitVec 12)
  /-- `jal rd, offset` (R145). -/
  | jal (rd : RegIx) (imm : BitVec 21)
  /-- `csrrw rd, csr, rs1` (R149). -/
  | csrrw (rd : RegIx) (csr : CsrAddr) (rs1 : RegIx)
  /-- `csrrs rd, csr, rs1` (R150). -/
  | csrrs (rd : RegIx) (csr : CsrAddr) (rs1 : RegIx)
  /-- `csrrc rd, csr, rs1` (R151). -/
  | csrrc (rd : RegIx) (csr : CsrAddr) (rs1 : RegIx)
  /-- `csrrwi rd, csr, zimm` (R152). -/
  | csrrwi (rd : RegIx) (csr : CsrAddr) (zimm : BitVec 5)
  /-- `csrrsi rd, csr, zimm` (R153). -/
  | csrrsi (rd : RegIx) (csr : CsrAddr) (zimm : BitVec 5)
  /-- `csrrci rd, csr, zimm` (R154). -/
  | csrrci (rd : RegIx) (csr : CsrAddr) (zimm : BitVec 5)
  /-- `sret` (R155). -/
  | sret
  /-- `mret` (R156). -/
  | mret
  /-- `sfence.vma rs1, rs2` (R157). -/
  | sfenceVma (rs1 rs2 : RegIx)
  deriving DecidableEq, Repr

end Sys2Proof
end

