-- ==== Sys2Proof/Decode.lean ====
section
/-! DEFINITION. Instruction words: the fields at their fixed positions (30_encoding.md R68, R69), the assembly of
the immediates (R71 to R75), the two-level decoder, total on every word and rejecting by name (R66, R76 to R82), and
after it the encoder, written from the formats of R70 and the selectors of R77. -/

namespace Sys2Proof

/-! ### Fields (30_encoding.md R68, R69) -/

/-- inst[6:0]. -/
def opcodeOf (w : InstWord) : BitVec 7 := w.extractLsb' 0 7
/-- inst[11:7]. -/
def rdOf (w : InstWord) : RegIx := w.extractLsb' 7 5
/-- inst[14:12]. -/
def funct3Of (w : InstWord) : BitVec 3 := w.extractLsb' 12 3
/-- inst[19:15]. -/
def rs1Of (w : InstWord) : RegIx := w.extractLsb' 15 5
/-- inst[24:20]. -/
def rs2Of (w : InstWord) : RegIx := w.extractLsb' 20 5
/-- inst[31:25]. -/
def funct7Of (w : InstWord) : BitVec 7 := w.extractLsb' 25 7
/-- inst[25:20], the shift amount of `slli`, `srli`, `srai`. -/
def shamt6Of (w : InstWord) : BitVec 6 := w.extractLsb' 20 6
/-- inst[31:26], the selector of `slli`, `srli`, `srai`. -/
def funct6Of (w : InstWord) : BitVec 6 := w.extractLsb' 26 6
/-- inst[24:20], the shift amount of `slliw`, `srliw`, `sraiw`. -/
def shamt5Of (w : InstWord) : BitVec 5 := w.extractLsb' 20 5
/-- inst[31:27], the selector of the AMOs. -/
def funct5Of (w : InstWord) : BitVec 5 := w.extractLsb' 27 5
/-- inst[26], the acquire bit of an AMO. -/
def aqOf (w : InstWord) : Bool := w.getLsbD 26
/-- inst[25], the release bit of an AMO. -/
def rlOf (w : InstWord) : Bool := w.getLsbD 25
/-- inst[31:20], the CSR address. -/
def csrOf (w : InstWord) : CsrAddr := w.extractLsb' 20 12
/-- inst[19:15], the CSR immediate. -/
def zimmOf (w : InstWord) : BitVec 5 := w.extractLsb' 15 5

/-! ### Immediates (30_encoding.md R71 to R75), before sign extension -/

/-- inst[31:20] (R71). -/
def immIOf (w : InstWord) : BitVec 12 := w.extractLsb' 20 12
/-- inst[31:25], inst[11:7] (R72). -/
def immSOf (w : InstWord) : BitVec 12 := w.extractLsb' 25 7 ++ w.extractLsb' 7 5
/-- inst[31], inst[7], inst[30:25], inst[11:8], 0 (R73). -/
def immBOf (w : InstWord) : BitVec 13 :=
  w.extractLsb' 31 1 ++ w.extractLsb' 7 1 ++ w.extractLsb' 25 6 ++ w.extractLsb' 8 4 ++ 0#1
/-- inst[31:12], the upper 20 bits of imm_U (R74). -/
def imm20Of (w : InstWord) : BitVec 20 := w.extractLsb' 12 20
/-- inst[31], inst[19:12], inst[20], inst[30:21], 0 (R75). -/
def immJOf (w : InstWord) : BitVec 21 :=
  w.extractLsb' 31 1 ++ w.extractLsb' 12 8 ++ w.extractLsb' 20 1 ++ w.extractLsb' 21 10 ++ 0#1

/-! ### The decoder -/

/-- Why a word, or a run of bytes, is no instruction. Each is the spec's decode fault (30_encoding.md R78), but for
`truncated`, which only a caller that decodes bytes itself can meet: `fetch` always gives four (R82). -/
inductive DecodeReject where
  /-- The opcode is none of the thirteen of R76. -/
  | unknownOpcode (opcode : BitVec 7)
  /-- The opcode is listed, but the selector fields match no row of its family (R77). -/
  | unknownSelector (opcode : BitVec 7)
  /-- The word of `mulw` on a core whose HAS_MULW is false (45_alu_register.md R133). -/
  | mulwAbsent
  /-- Fewer than four bytes. -/
  | truncated (length : Nat)
  deriving DecidableEq, Repr

/-- The instruction family a listed opcode selects (30_encoding.md R76). -/
inductive Family where
  | load | opImm | auipc | opImm32 | store | amo | op | lui | op32 | branch | jalr | jal | system
  deriving DecidableEq, Repr

/-- First level of the decoder (30_encoding.md R76). -/
def familyOf (opcode : BitVec 7) : Option Family :=
  match opcode with
  | 0x03#7 => some .load
  | 0x13#7 => some .opImm
  | 0x17#7 => some .auipc
  | 0x1b#7 => some .opImm32
  | 0x23#7 => some .store
  | 0x2f#7 => some .amo
  | 0x33#7 => some .op
  | 0x37#7 => some .lui
  | 0x3b#7 => some .op32
  | 0x63#7 => some .branch
  | 0x67#7 => some .jalr
  | 0x6f#7 => some .jal
  | 0x73#7 => some .system
  | _ => none

/-- No row of the word's family matches its selector fields. -/
def noSelector (w : InstWord) : Except DecodeReject Instr := .error (.unknownSelector (opcodeOf w))

/-- LOAD: funct3 selects (30_encoding.md R77). -/
def decodeLoad (w : InstWord) : Except DecodeReject Instr :=
  match funct3Of w with
  | 0#3 => .ok (.lb (rdOf w) (rs1Of w) (immIOf w))
  | 1#3 => .ok (.lh (rdOf w) (rs1Of w) (immIOf w))
  | 2#3 => .ok (.lw (rdOf w) (rs1Of w) (immIOf w))
  | 3#3 => .ok (.ld (rdOf w) (rs1Of w) (immIOf w))
  | 4#3 => .ok (.lbu (rdOf w) (rs1Of w) (immIOf w))
  | 5#3 => .ok (.lhu (rdOf w) (rs1Of w) (immIOf w))
  | 6#3 => .ok (.lwu (rdOf w) (rs1Of w) (immIOf w))
  | _ => noSelector w

/-- OP-IMM: funct3 selects, and funct6 for the shifts (30_encoding.md R77). -/
def decodeOpImm (w : InstWord) : Except DecodeReject Instr :=
  match funct3Of w with
  | 0#3 => .ok (.addi (rdOf w) (rs1Of w) (immIOf w))
  | 1#3 =>
    match funct6Of w with
    | 0x00#6 => .ok (.slli (rdOf w) (rs1Of w) (shamt6Of w))
    | _ => noSelector w
  | 2#3 => .ok (.slti (rdOf w) (rs1Of w) (immIOf w))
  | 3#3 => .ok (.sltiu (rdOf w) (rs1Of w) (immIOf w))
  | 4#3 => .ok (.xori (rdOf w) (rs1Of w) (immIOf w))
  | 5#3 =>
    match funct6Of w with
    | 0x00#6 => .ok (.srli (rdOf w) (rs1Of w) (shamt6Of w))
    | 0x10#6 => .ok (.srai (rdOf w) (rs1Of w) (shamt6Of w))
    | _ => noSelector w
  | 6#3 => .ok (.ori (rdOf w) (rs1Of w) (immIOf w))
  | 7#3 => .ok (.andi (rdOf w) (rs1Of w) (immIOf w))
  | _ => noSelector w

/-- OP-IMM-32: funct3 selects, and funct7 for the shifts (30_encoding.md R77). -/
def decodeOpImm32 (w : InstWord) : Except DecodeReject Instr :=
  match funct3Of w with
  | 0#3 => .ok (.addiw (rdOf w) (rs1Of w) (immIOf w))
  | 1#3 =>
    match funct7Of w with
    | 0x00#7 => .ok (.slliw (rdOf w) (rs1Of w) (shamt5Of w))
    | _ => noSelector w
  | 5#3 =>
    match funct7Of w with
    | 0x00#7 => .ok (.srliw (rdOf w) (rs1Of w) (shamt5Of w))
    | 0x20#7 => .ok (.sraiw (rdOf w) (rs1Of w) (shamt5Of w))
    | _ => noSelector w
  | _ => noSelector w

/-- STORE: funct3 selects (30_encoding.md R77). -/
def decodeStore (w : InstWord) : Except DecodeReject Instr :=
  match funct3Of w with
  | 0#3 => .ok (.sb (rs2Of w) (rs1Of w) (immSOf w))
  | 1#3 => .ok (.sh (rs2Of w) (rs1Of w) (immSOf w))
  | 2#3 => .ok (.sw (rs2Of w) (rs1Of w) (immSOf w))
  | 3#3 => .ok (.sd (rs2Of w) (rs1Of w) (immSOf w))
  | _ => noSelector w

/-- AMO: funct3 and funct5 select; aq and rl may hold anything (30_encoding.md R77). -/
def decodeAmo (w : InstWord) : Except DecodeReject Instr :=
  match funct3Of w with
  | 2#3 =>
    match funct5Of w with
    | 0x00#5 => .ok (.amoaddW (rdOf w) (rs2Of w) (rs1Of w) (aqOf w) (rlOf w))
    | 0x01#5 => .ok (.amoswapW (rdOf w) (rs2Of w) (rs1Of w) (aqOf w) (rlOf w))
    | _ => noSelector w
  | 3#3 =>
    match funct5Of w with
    | 0x00#5 => .ok (.amoaddD (rdOf w) (rs2Of w) (rs1Of w) (aqOf w) (rlOf w))
    | 0x01#5 => .ok (.amoswapD (rdOf w) (rs2Of w) (rs1Of w) (aqOf w) (rlOf w))
    | _ => noSelector w
  | _ => noSelector w

/-- OP: funct3 and funct7 select (30_encoding.md R77). -/
def decodeOp (w : InstWord) : Except DecodeReject Instr :=
  match funct7Of w with
  | 0x00#7 =>
    match funct3Of w with
    | 0#3 => .ok (.add (rdOf w) (rs1Of w) (rs2Of w))
    | 1#3 => .ok (.sll (rdOf w) (rs1Of w) (rs2Of w))
    | 2#3 => .ok (.slt (rdOf w) (rs1Of w) (rs2Of w))
    | 3#3 => .ok (.sltu (rdOf w) (rs1Of w) (rs2Of w))
    | 4#3 => .ok (.xor (rdOf w) (rs1Of w) (rs2Of w))
    | 5#3 => .ok (.srl (rdOf w) (rs1Of w) (rs2Of w))
    | 6#3 => .ok (.or (rdOf w) (rs1Of w) (rs2Of w))
    | 7#3 => .ok (.and (rdOf w) (rs1Of w) (rs2Of w))
    | _ => noSelector w
  | 0x20#7 =>
    match funct3Of w with
    | 0#3 => .ok (.sub (rdOf w) (rs1Of w) (rs2Of w))
    | 5#3 => .ok (.sra (rdOf w) (rs1Of w) (rs2Of w))
    | _ => noSelector w
  | 0x01#7 =>
    match funct3Of w with
    | 0#3 => .ok (.mul (rdOf w) (rs1Of w) (rs2Of w))
    | _ => noSelector w
  | _ => noSelector w

/-- OP-32: funct3 and funct7 select; `mulw` only where HAS_MULW is true (30_encoding.md R77). -/
def decodeOp32 (hasMulw : Bool) (w : InstWord) : Except DecodeReject Instr :=
  match funct7Of w with
  | 0x00#7 =>
    match funct3Of w with
    | 0#3 => .ok (.addw (rdOf w) (rs1Of w) (rs2Of w))
    | 1#3 => .ok (.sllw (rdOf w) (rs1Of w) (rs2Of w))
    | 5#3 => .ok (.srlw (rdOf w) (rs1Of w) (rs2Of w))
    | _ => noSelector w
  | 0x20#7 =>
    match funct3Of w with
    | 0#3 => .ok (.subw (rdOf w) (rs1Of w) (rs2Of w))
    | 5#3 => .ok (.sraw (rdOf w) (rs1Of w) (rs2Of w))
    | _ => noSelector w
  | 0x01#7 =>
    match funct3Of w with
    | 0#3 => if hasMulw then .ok (.mulw (rdOf w) (rs1Of w) (rs2Of w)) else .error .mulwAbsent
    | _ => noSelector w
  | _ => noSelector w

/-- BRANCH: funct3 selects (30_encoding.md R77). -/
def decodeBranch (w : InstWord) : Except DecodeReject Instr :=
  match funct3Of w with
  | 0#3 => .ok (.beq (rs1Of w) (rs2Of w) (immBOf w))
  | 1#3 => .ok (.bne (rs1Of w) (rs2Of w) (immBOf w))
  | 4#3 => .ok (.blt (rs1Of w) (rs2Of w) (immBOf w))
  | 5#3 => .ok (.bge (rs1Of w) (rs2Of w) (immBOf w))
  | 6#3 => .ok (.bltu (rs1Of w) (rs2Of w) (immBOf w))
  | 7#3 => .ok (.bgeu (rs1Of w) (rs2Of w) (immBOf w))
  | _ => noSelector w

/-- JALR: funct3 must be 0 (30_encoding.md R77). -/
def decodeJalr (w : InstWord) : Except DecodeReject Instr :=
  match funct3Of w with
  | 0#3 => .ok (.jalr (rdOf w) (rs1Of w) (immIOf w))
  | _ => noSelector w

/-- SYSTEM with funct3 = 0: the whole word of `sret` or `mret`, or funct7 and rd of `sfence.vma` (30_encoding.md R77). -/
def decodePrivileged (w : InstWord) : Except DecodeReject Instr :=
  if w = 0x10200073#32 then .ok .sret
  else if w = 0x30200073#32 then .ok .mret
  else if funct7Of w = 0x09#7 ∧ rdOf w = 0#5 then .ok (.sfenceVma (rs1Of w) (rs2Of w))
  else noSelector w

/-- SYSTEM: funct3 selects (30_encoding.md R77). -/
def decodeSystem (w : InstWord) : Except DecodeReject Instr :=
  match funct3Of w with
  | 0#3 => decodePrivileged w
  | 1#3 => .ok (.csrrw (rdOf w) (csrOf w) (rs1Of w))
  | 2#3 => .ok (.csrrs (rdOf w) (csrOf w) (rs1Of w))
  | 3#3 => .ok (.csrrc (rdOf w) (csrOf w) (rs1Of w))
  | 5#3 => .ok (.csrrwi (rdOf w) (csrOf w) (zimmOf w))
  | 6#3 => .ok (.csrrsi (rdOf w) (csrOf w) (zimmOf w))
  | 7#3 => .ok (.csrrci (rdOf w) (csrOf w) (zimmOf w))
  | _ => noSelector w

/-- The decoder, total on every 32-bit word (30_encoding.md R66): one instruction with its operands, or a decode
fault (R78). `hasMulw` is the switch HAS_MULW. -/
def decodeWord (hasMulw : Bool) (w : InstWord) : Except DecodeReject Instr :=
  match familyOf (opcodeOf w) with
  | none => .error (.unknownOpcode (opcodeOf w))
  | some .load => decodeLoad w
  | some .opImm => decodeOpImm w
  | some .auipc => .ok (.auipc (rdOf w) (imm20Of w))
  | some .opImm32 => decodeOpImm32 w
  | some .store => decodeStore w
  | some .amo => decodeAmo w
  | some .op => decodeOp w
  | some .lui => .ok (.lui (rdOf w) (imm20Of w))
  | some .op32 => decodeOp32 hasMulw w
  | some .branch => decodeBranch w
  | some .jalr => decodeJalr w
  | some .jal => .ok (.jal (rdOf w) (immJOf w))
  | some .system => decodeSystem w

/-- The word four bytes of memory hold, the first at the lowest address and least significant
(30_encoding.md R67; 20_memory.md R51, R56). -/
def wordOfBytes (b0 b1 b2 b3 : Byte) : InstWord := b3 ++ b2 ++ b1 ++ b0

/-- The decoder on a run of bytes: the first instruction and the bytes after it. -/
def decodeBytes (hasMulw : Bool) (bytes : List Byte) : Except DecodeReject (Instr × List Byte) :=
  match bytes with
  | b0 :: b1 :: b2 :: b3 :: rest =>
    match decodeWord hasMulw (wordOfBytes b0 b1 b2 b3) with
    | .ok i => .ok (i, rest)
    | .error e => .error e
  | short => .error (.truncated short.length)

/-! ### The encoder -/

/-- Format R (30_encoding.md R70). -/
def rWord (funct7 : BitVec 7) (rs2 rs1 : RegIx) (funct3 : BitVec 3) (rd : RegIx) (opcode : BitVec 7) : InstWord :=
  funct7 ++ rs2 ++ rs1 ++ funct3 ++ rd ++ opcode

/-- Format R of an AMO: funct7 is funct5, aq, rl (30_encoding.md R69, R70). -/
def amoWord (funct5 : BitVec 5) (aq rl : Bool) (rs2 rs1 : RegIx) (funct3 : BitVec 3) (rd : RegIx) : InstWord :=
  funct5 ++ BitVec.ofBool aq ++ BitVec.ofBool rl ++ rs2 ++ rs1 ++ funct3 ++ rd ++ 0x2f#7

/-- Format I (30_encoding.md R70); the CSR instructions put the CSR address in the immediate's place. -/
def iWord (imm : BitVec 12) (rs1 : RegIx) (funct3 : BitVec 3) (rd : RegIx) (opcode : BitVec 7) : InstWord :=
  imm ++ rs1 ++ funct3 ++ rd ++ opcode

/-- Format I of `slli`, `srli`, `srai`: funct6 above a 6-bit shift amount (30_encoding.md R69). -/
def shift64Word (funct6 : BitVec 6) (shamt : BitVec 6) (rs1 : RegIx) (funct3 : BitVec 3) (rd : RegIx) : InstWord :=
  funct6 ++ shamt ++ rs1 ++ funct3 ++ rd ++ 0x13#7

/-- Format I of `slliw`, `srliw`, `sraiw`: funct7 above a 5-bit shift amount (30_encoding.md R69). -/
def shift32Word (funct7 : BitVec 7) (shamt : BitVec 5) (rs1 : RegIx) (funct3 : BitVec 3) (rd : RegIx) : InstWord :=
  funct7 ++ shamt ++ rs1 ++ funct3 ++ rd ++ 0x1b#7

/-- Format S (30_encoding.md R70). -/
def sWord (imm : BitVec 12) (rs2 rs1 : RegIx) (funct3 : BitVec 3) : InstWord :=
  imm.extractLsb' 5 7 ++ rs2 ++ rs1 ++ funct3 ++ imm.extractLsb' 0 5 ++ 0x23#7

/-- Format B (30_encoding.md R70); bit 0 of the offset is not encoded. -/
def bWord (imm : BitVec 13) (rs2 rs1 : RegIx) (funct3 : BitVec 3) : InstWord :=
  imm.extractLsb' 12 1 ++ imm.extractLsb' 5 6 ++ rs2 ++ rs1 ++ funct3
    ++ imm.extractLsb' 1 4 ++ imm.extractLsb' 11 1 ++ 0x63#7

/-- Format U (30_encoding.md R70). -/
def uWord (imm20 : BitVec 20) (rd : RegIx) (opcode : BitVec 7) : InstWord := imm20 ++ rd ++ opcode

/-- Format J (30_encoding.md R70); bit 0 of the offset is not encoded. -/
def jWord (imm : BitVec 21) (rd : RegIx) : InstWord :=
  imm.extractLsb' 20 1 ++ imm.extractLsb' 1 10 ++ imm.extractLsb' 11 1 ++ imm.extractLsb' 12 8 ++ rd ++ 0x6f#7

/-- The word of an instruction, from the formats of 30_encoding.md R70 and the selectors of R77. Of an offset that
is not even (no well-formed instruction has one) bit 0 is lost. -/
def encode : Instr → InstWord
  | .lb rd rs1 imm => iWord imm rs1 0#3 rd 0x03#7
  | .lh rd rs1 imm => iWord imm rs1 1#3 rd 0x03#7
  | .lw rd rs1 imm => iWord imm rs1 2#3 rd 0x03#7
  | .ld rd rs1 imm => iWord imm rs1 3#3 rd 0x03#7
  | .lbu rd rs1 imm => iWord imm rs1 4#3 rd 0x03#7
  | .lhu rd rs1 imm => iWord imm rs1 5#3 rd 0x03#7
  | .lwu rd rs1 imm => iWord imm rs1 6#3 rd 0x03#7
  | .addi rd rs1 imm => iWord imm rs1 0#3 rd 0x13#7
  | .slti rd rs1 imm => iWord imm rs1 2#3 rd 0x13#7
  | .sltiu rd rs1 imm => iWord imm rs1 3#3 rd 0x13#7
  | .xori rd rs1 imm => iWord imm rs1 4#3 rd 0x13#7
  | .ori rd rs1 imm => iWord imm rs1 6#3 rd 0x13#7
  | .andi rd rs1 imm => iWord imm rs1 7#3 rd 0x13#7
  | .slli rd rs1 shamt => shift64Word 0x00#6 shamt rs1 1#3 rd
  | .srli rd rs1 shamt => shift64Word 0x00#6 shamt rs1 5#3 rd
  | .srai rd rs1 shamt => shift64Word 0x10#6 shamt rs1 5#3 rd
  | .addiw rd rs1 imm => iWord imm rs1 0#3 rd 0x1b#7
  | .slliw rd rs1 shamt => shift32Word 0x00#7 shamt rs1 1#3 rd
  | .srliw rd rs1 shamt => shift32Word 0x00#7 shamt rs1 5#3 rd
  | .sraiw rd rs1 shamt => shift32Word 0x20#7 shamt rs1 5#3 rd
  | .auipc rd imm20 => uWord imm20 rd 0x17#7
  | .lui rd imm20 => uWord imm20 rd 0x37#7
  | .sb rs2 rs1 imm => sWord imm rs2 rs1 0#3
  | .sh rs2 rs1 imm => sWord imm rs2 rs1 1#3
  | .sw rs2 rs1 imm => sWord imm rs2 rs1 2#3
  | .sd rs2 rs1 imm => sWord imm rs2 rs1 3#3
  | .amoaddW rd rs2 rs1 aq rl => amoWord 0x00#5 aq rl rs2 rs1 2#3 rd
  | .amoswapW rd rs2 rs1 aq rl => amoWord 0x01#5 aq rl rs2 rs1 2#3 rd
  | .amoaddD rd rs2 rs1 aq rl => amoWord 0x00#5 aq rl rs2 rs1 3#3 rd
  | .amoswapD rd rs2 rs1 aq rl => amoWord 0x01#5 aq rl rs2 rs1 3#3 rd
  | .add rd rs1 rs2 => rWord 0x00#7 rs2 rs1 0#3 rd 0x33#7
  | .sub rd rs1 rs2 => rWord 0x20#7 rs2 rs1 0#3 rd 0x33#7
  | .mul rd rs1 rs2 => rWord 0x01#7 rs2 rs1 0#3 rd 0x33#7
  | .sll rd rs1 rs2 => rWord 0x00#7 rs2 rs1 1#3 rd 0x33#7
  | .slt rd rs1 rs2 => rWord 0x00#7 rs2 rs1 2#3 rd 0x33#7
  | .sltu rd rs1 rs2 => rWord 0x00#7 rs2 rs1 3#3 rd 0x33#7
  | .xor rd rs1 rs2 => rWord 0x00#7 rs2 rs1 4#3 rd 0x33#7
  | .srl rd rs1 rs2 => rWord 0x00#7 rs2 rs1 5#3 rd 0x33#7
  | .sra rd rs1 rs2 => rWord 0x20#7 rs2 rs1 5#3 rd 0x33#7
  | .or rd rs1 rs2 => rWord 0x00#7 rs2 rs1 6#3 rd 0x33#7
  | .and rd rs1 rs2 => rWord 0x00#7 rs2 rs1 7#3 rd 0x33#7
  | .addw rd rs1 rs2 => rWord 0x00#7 rs2 rs1 0#3 rd 0x3b#7
  | .subw rd rs1 rs2 => rWord 0x20#7 rs2 rs1 0#3 rd 0x3b#7
  | .mulw rd rs1 rs2 => rWord 0x01#7 rs2 rs1 0#3 rd 0x3b#7
  | .sllw rd rs1 rs2 => rWord 0x00#7 rs2 rs1 1#3 rd 0x3b#7
  | .srlw rd rs1 rs2 => rWord 0x00#7 rs2 rs1 5#3 rd 0x3b#7
  | .sraw rd rs1 rs2 => rWord 0x20#7 rs2 rs1 5#3 rd 0x3b#7
  | .beq rs1 rs2 imm => bWord imm rs2 rs1 0#3
  | .bne rs1 rs2 imm => bWord imm rs2 rs1 1#3
  | .blt rs1 rs2 imm => bWord imm rs2 rs1 4#3
  | .bge rs1 rs2 imm => bWord imm rs2 rs1 5#3
  | .bltu rs1 rs2 imm => bWord imm rs2 rs1 6#3
  | .bgeu rs1 rs2 imm => bWord imm rs2 rs1 7#3
  | .jalr rd rs1 imm => iWord imm rs1 0#3 rd 0x67#7
  | .jal rd imm => jWord imm rd
  | .csrrw rd csr rs1 => iWord csr rs1 1#3 rd 0x73#7
  | .csrrs rd csr rs1 => iWord csr rs1 2#3 rd 0x73#7
  | .csrrc rd csr rs1 => iWord csr rs1 3#3 rd 0x73#7
  | .csrrwi rd csr zimm => iWord csr zimm 5#3 rd 0x73#7
  | .csrrsi rd csr zimm => iWord csr zimm 6#3 rd 0x73#7
  | .csrrci rd csr zimm => iWord csr zimm 7#3 rd 0x73#7
  | .sret => 0x10200073#32
  | .mret => 0x30200073#32
  | .sfenceVma rs1 rs2 => rWord 0x09#7 rs2 rs1 0#3 0#5 0x73#7

/-- The four bytes of an instruction in memory, lowest address first (30_encoding.md R67). -/
def encodeBytes (i : Instr) : List Byte :=
  let w := encode i
  [w.extractLsb' 0 8, w.extractLsb' 8 8, w.extractLsb' 16 8, w.extractLsb' 24 8]

/-! ### The decoder on the opcode table's numbering -/

/-- The bytes of an instruction whose bits are `w`, of which the opcode table gives the low `nbits` and the rest are
0. The table numbers bit 0 as the least significant bit of the first byte, as memory does (30_encoding.md R67). -/
def tableBytes (nbits w : Nat) : List Byte :=
  let v := BitVec.ofNat 32 (w % 2 ^ nbits)
  [v.extractLsb' 0 8, v.extractLsb' 8 8, v.extractLsb' 16 8, v.extractLsb' 24 8]

/-- What the decoder reads from such an instruction, on a core with the default switches (HAS_MULW true). -/
def decodeTableWord (nbits w : Nat) : Option Instr :=
  match decodeBytes true (tableBytes nbits w) with
  | .ok (i, _) => some i
  | .error _ => none

end Sys2Proof
end

