-- ==== Sys2Proof/Config.lean ====
section
/-! DEFINITION. The parameters and switches the spec leaves to the implementation (00_scope.md R10, R11), as
plain data. A state carries one Config and no step changes it, so a statement about every state is a statement
about every value of the parameters and every setting of the switches (log entries 1 and 2). The draws of R10
(GPR_INIT, CSR_INIT, RAM_INIT, FPR_INIT) are arguments of State.construct (Machine/Interfaces.lean). -/

namespace Sys2Proof

/-- SHIFT64_MODE and SHIFTW_MODE (00_scope.md R11): the source's rotate-style shifts, or the standard ones. -/
inductive ShiftMode where
  | quirk
  | standard
  deriving DecidableEq, Repr

/-- AMOW_RD_EXT (00_scope.md R11): how a 32-bit AMO extends the old word into rd. -/
inductive AmoExt where
  | zext
  | sext
  deriving DecidableEq, Repr

/-- MPP2_BEHAVIOUR (00_scope.md R11): what `mret` does when MSTATUS.MPP holds 2, which names no mode. -/
inductive Mpp2Behaviour where
  | fault
  | user
  | supervisor
  | machine
  deriving DecidableEq, Repr

/-- The named parameters and the switches of 00_scope.md R10 and R11. -/
structure Config where
  /-- RAM_BASE, the address of the first RAM byte. -/
  ramBase : Word
  /-- RAM_SIZE, the number of RAM bytes. -/
  ramSize : Nat
  /-- IMAGE_MARGIN, by how much an image must be smaller than RAM. -/
  imageMargin : Nat
  shift64Mode : ShiftMode
  shiftWMode : ShiftMode
  hasMulw : Bool
  sequentialLink : Bool
  amowRdExt : AmoExt
  mpp2Behaviour : Mpp2Behaviour
  deriving DecidableEq, Repr

/-- The constraints R10 puts on the parameters:
0 < RAM_BASE, RAM_BASE + RAM_SIZE ≤ 2^64, RAM_SIZE ≥ 1, 1 ≤ IMAGE_MARGIN ≤ RAM_SIZE. -/
def Config.wf (c : Config) : Bool :=
  decide (0 < c.ramBase.toNat) && decide (c.ramBase.toNat + c.ramSize ≤ 2 ^ 64)
    && decide (1 ≤ c.ramSize) && decide (1 ≤ c.imageMargin) && decide (c.imageMargin ≤ c.ramSize)

/-- The configuration State.reset takes: the switches at the spec's defaults (R11) and values for the three
parameters the spec leaves open: RAM_BASE 0x8000_0000 (PRESUMED, the usual value), RAM_SIZE 128 MiB (the source's
example) and IMAGE_MARGIN 1 (DESIGN CHOICE; log entries 1 and 2). -/
def Config.default : Config where
  ramBase := 0x80000000#64
  ramSize := 0x08000000
  imageMargin := 1
  shift64Mode := .quirk
  shiftWMode := .quirk
  hasMulw := true
  sequentialLink := false
  amowRdExt := .zext
  mpp2Behaviour := .fault

end Sys2Proof
end

