-- ==== Sys2Proof/Machine/State.lean ====
section
/-! DEFINITION. The state of the core as plain data: everything 10_state.md and 20_memory.md give the machine, the
faults a step can end in, and the state after reset (10_state.md R46). -/

namespace Sys2Proof.Machine

/-- The privilege mode (10_state.md R31). -/
inductive Mode where
  | user
  | supervisor
  | machine
  deriving DecidableEq, Repr

/-- What a caller did wrong when it broke a contract (60_exceptions.md R168). -/
inductive Violation where
  /-- A register index of 32 or more at the observation interface. -/
  | registerIndex (index : Nat)
  /-- A Bus access of a size other than 8, 16, 32 or 64 bits. -/
  | accessSize (bits : Nat)
  deriving DecidableEq, Repr

/-- The faults of 60_exceptions.md R165 to R169, each with the report the spec gives it. All are the spec's own
stops, so they are safe: no effect the spec gives is left out. -/
inductive FaultReason where
  /-- Raised by a step whose word decodes to no instruction; carries the word and inst[6:0] (R165). -/
  | decodeFault (inst : InstWord) (opcode : BitVec 7)
  /-- Raised by a fetch, load, store or AMO below RAM_BASE (R166). -/
  | unimplementedMMIO (addr : Word)
  /-- Raised by a fetch, load, store or AMO of `n` bytes that reaches past the last RAM byte (R167). -/
  | memOutOfRange (addr : Word) (n : Nat)
  /-- Raised by the Bus on a size it does not accept, and by the observation interface; by no step (R168). -/
  | contractViolation (what : Violation)
  /-- Raised by `mret` with MSTATUS.MPP = 2 under MPP2_BEHAVIOUR = fault; carries MSTATUS (R169). -/
  | reservedMPP (mstatus : Word)
  deriving DecidableEq, Repr

/-- The engine status (10_state.md R45). -/
inductive EngineStatus where
  | running
  | halted
  | faulted (reason : FaultReason)
  deriving DecidableEq, Repr

/-- RAM contents: (Memory offset, byte) pairs, offsets strictly rising, no byte that an unlisted offset reads as
(Machine/Cells.lean; 20_memory.md R48, R51; log entries 5 and 12). -/
abbrev Memory := List Host.Cell

/-- The CSR bank: (CSR address, value) pairs in the same canonical form, the slot 0x104 never listed
(10_state.md R32, R35; log entries 4 and 13). -/
abbrev CsrBank := List (Nat × Word)

/-- The core (10_state.md R46; 00_scope.md R7): the Hart's state, its Memory and its engine status, with the
parameters the core was built with. -/
structure State where
  /-- The parameters and switches (00_scope.md R10, R11); no step writes them. -/
  cfg : Config
  /-- The program counter (10_state.md R27). -/
  pc : Word
  /-- The integer registers x0 to x31 (10_state.md R21). -/
  x : Vector Word 32
  /-- The floating-point registers f0 to f31, which nothing reads or writes (10_state.md R30). -/
  f : Vector Word 32
  /-- The CSR bank (10_state.md R32). -/
  csr : CsrBank
  /-- The privilege mode (10_state.md R31). -/
  mode : Mode
  /-- The Memory behind the Bus (20_memory.md R51). -/
  mem : Memory
  /-- The engine status (10_state.md R45). -/
  status : EngineStatus
  deriving DecidableEq, Repr

/-- How a step can stop. -/
inductive Fault where
  /-- The step ended in one of the spec's faults. `left` is the state the fault leaves (60_exceptions.md R164), its
  engine status Faulted(reason). Raised by fetch, decode and the instructions; safe, the spec's own stop. -/
  | raised (reason : FaultReason) (left : State)
  /-- A step was asked of a core that is Halted or Faulted, from which there is no transition; nothing changes
  (60_exceptions.md R163). Raised by `step`; safe, a stuck state. -/
  | notRunning (left : State)
  deriving DecidableEq, Repr

/-- How a step can be refused. -/
inductive Refusal where
  /-- The instruction has no meaning in this model yet. Raised by an arm of `exec` alone; safe. No arm raises it now. -/
  | notModelled (mnemonic : String)
  deriving DecidableEq, Repr

/-- The core right after construction from an empty image under Config.default (10_state.md R46;
70_reset_and_hazards.md R182): pc = RAM_BASE, x2 = RAM_BASE + RAM_SIZE, Machine mode, Running. What the spec leaves
to a draw is zero here: x1 and x3 to x31 (log entry 3), the CSRs (4), the RAM bytes (5), f0 to f31 (6). -/
def State.reset : State where
  cfg := Config.default
  pc := Config.default.ramBase
  x := (Vector.replicate 32 0#64).set 2 (Config.default.ramBase + BitVec.ofNat 64 Config.default.ramSize)
  f := Vector.replicate 32 0#64
  csr := []
  mode := .machine
  mem := []
  status := .running

end Sys2Proof.Machine
end

