-- ==== Sys2Proof/Machine/Cells.lean ====
section
/-! DEFINITION. Sparse storage in one canonical form: a list of (key, value) pairs, keys strictly rising, no zero
value listed. RAM (20_memory.md R51) and the CSR bank (10_state.md R32) are both held so. -/

namespace Sys2Proof.Machine

/-- What an unlisted key reads as: zero. For RAM this is the model's choice of RAM_INIT after reset (log entry 5),
for the CSR bank its choice of CSR_INIT (log entry 4). -/
def unlistedCell (w : Nat) : BitVec w := 0#w

/-- The value at a key. -/
def getCell {w : Nat} (cells : List (Nat × BitVec w)) (k : Nat) : BitVec w :=
  match cells with
  | [] => unlistedCell w
  | (a, v) :: rest => if a = k then v else getCell rest k

/-- Put a pair in front, unless an unlisted key reads the same. -/
def consCell {w : Nat} (k : Nat) (v : BitVec w) (cells : List (Nat × BitVec w)) : List (Nat × BitVec w) :=
  if v = unlistedCell w then cells else (k, v) :: cells

/-- Write a value at a key, keeping the canonical form: writing what an unlisted key reads as removes the entry. -/
def setCell {w : Nat} (cells : List (Nat × BitVec w)) (k : Nat) (v : BitVec w) : List (Nat × BitVec w) :=
  match cells with
  | [] => consCell k v []
  | (a, u) :: rest =>
    if a < k then (a, u) :: setCell rest k v
    else if a = k then consCell k v rest
    else consCell k v ((a, u) :: rest)

/-- The canonical form, with every key from `lo` up and below `hi`. -/
def cellsWf {w : Nat} (lo hi : Nat) (cells : List (Nat × BitVec w)) : Bool :=
  match cells with
  | [] => true
  | (a, v) :: rest => decide (lo ≤ a) && decide (a < hi) && decide (v ≠ unlistedCell w) && cellsWf (a + 1) hi rest

/-- RAM is in canonical form and lies within its `size` bytes (20_memory.md R50, R51). -/
def Memory.wf (size : Nat) (m : Memory) : Bool := cellsWf 0 size m

/-- The CSR bank is in canonical form, its addresses have 12 bits, and the alias SIE (0x104) holds no slot
(10_state.md R32, R35). -/
def CsrBank.wf (b : CsrBank) : Bool := cellsWf 0 4096 b && b.all fun c => decide (c.1 ≠ 0x104)

end Sys2Proof.Machine
end

