-- ==== Sys2Proof/Machine/Ops.lean ====
section
/-! DEFINITION. The named operations over the state: registers (10_state.md R22, R23), the CSR bank (R33, R34), the
Bus and Memory (20_memory.md R48 to R54), fetch and the pre-advance of pc (60_exceptions.md R159), what a fault
leaves (R164), the return from a trap (47_system.md R155, R156) and the halt check (60_exceptions.md R161). The
hardware has no trap entry (60_exceptions.md R171): a fault is the only thing an instruction can raise. -/

namespace Sys2Proof.Machine

/-! ### Plain updates -/

/-- `pc <- t`. -/
def State.setPc (s : State) (t : Word) : State := { s with pc := t }

/-- `mode <- m`. -/
def State.setMode (s : State) (m : Mode) : State := { s with mode := m }

/-- The engine status becomes `e`. -/
def State.setStatus (s : State) (e : EngineStatus) : State := { s with status := e }

/-- Memory becomes `m`. -/
def State.setMem (s : State) (m : Memory) : State := { s with mem := m }

/-! ### Integer registers -/

/-- `x[r]`: the stored value, and 0 for r = 0 (10_state.md R22). -/
def State.readX (s : State) (r : RegIx) : Word :=
  if r = 0#5 then 0#64 else s.x[r.toNat]'r.isLt

/-- `x[r] <- v`: no effect for r = 0 (10_state.md R23). -/
def State.writeX (s : State) (r : RegIx) (v : Word) : State :=
  if r = 0#5 then s else { s with x := s.x.set r.toNat v r.isLt }

/-! ### CSR bank -/

/-- The CSR addresses with a role in this hardware (10_state.md R37). -/
def csrSSTATUS : CsrAddr := 0x100#12
/-- The alias of MIE through MIDELEG. -/
def csrSIE : CsrAddr := 0x104#12
/-- Read by `sret` as the return pc. -/
def csrSEPC : CsrAddr := 0x141#12
/-- Read and written by `mret`. -/
def csrMSTATUS : CsrAddr := 0x300#12
/-- The mask of the SIE alias. -/
def csrMIDELEG : CsrAddr := 0x303#12
/-- The backing store of the SIE alias. -/
def csrMIE : CsrAddr := 0x304#12
/-- Read by `mret` as the return pc. -/
def csrMEPC : CsrAddr := 0x341#12

/-- The stored slot CSR[a] (10_state.md R32). -/
def State.csrSlot (s : State) (a : CsrAddr) : Word := getCell s.csr a.toNat

/-- `CSR[a] <- v` (10_state.md R32). -/
def State.setCsrSlot (s : State) (a : CsrAddr) (v : Word) : State := { s with csr := setCell s.csr a.toNat v }

/-- `csr_read(a)`: SIE reads MIE & MIDELEG, every other address its slot (10_state.md R33). -/
def State.csrRead (s : State) (a : CsrAddr) : Word :=
  if a = csrSIE then s.csrSlot csrMIE &&& s.csrSlot csrMIDELEG else s.csrSlot a

/-- `csr_write(a, v)`: SIE updates the bits of MIE that MIDELEG delegates, every other address its whole slot
(10_state.md R34). -/
def State.csrWrite (s : State) (a : CsrAddr) (v : Word) : State :=
  if a = csrSIE then
    s.setCsrSlot csrMIE
      ((s.csrSlot csrMIE &&& ~~~(s.csrSlot csrMIDELEG)) ||| (v &&& s.csrSlot csrMIDELEG))
  else s.setCsrSlot a v

/-! ### Bytes -/

/-- The value of bytes given lowest address first: little-endian, zero-extended to 64 bits (20_memory.md R51). -/
def leValue : List Byte → Word
  | [] => 0#64
  | b :: rest => b.setWidth 64 ||| (leValue rest <<< 8)

/-- The `n` low-order bytes of a value, lowest address first (20_memory.md R52). -/
def leBytes : Nat → Word → List Byte
  | 0, _ => []
  | n + 1, v => v.setWidth 8 :: leBytes n (v >>> 8)

/-- `n` bytes of Memory from offset `o` up. -/
def readCells (m : Memory) (o : Nat) : Nat → List Byte
  | 0 => []
  | n + 1 => getCell m o :: readCells m (o + 1) n

/-- Bytes written to Memory from offset `o` up. -/
def writeCells (m : Memory) (o : Nat) : List Byte → Memory
  | [] => m
  | b :: rest => writeCells (setCell m o b) (o + 1) rest

/-! ### Bus and Memory -/

/-- The access sizes the Bus accepts, in bits (20_memory.md R53). -/
def busSizeOk (size : Nat) : Bool := size == 8 || size == 16 || size == 32 || size == 64

/-- The Bus's translation of an `n`-byte access: below RAM_BASE it is unimplemented MMIO, past the last RAM byte it
is out of range, else it goes to Memory offset addr - RAM_BASE (20_memory.md R48 to R50). -/
def State.busOffset (s : State) (addr : Word) (n : Nat) : Except FaultReason Nat :=
  if addr.toNat < s.cfg.ramBase.toNat then .error (.unimplementedMMIO addr)
  else if addr.toNat - s.cfg.ramBase.toNat + n > s.cfg.ramSize then .error (.memOutOfRange addr n)
  else .ok (addr.toNat - s.cfg.ramBase.toNat)

/-- `load(addr, size)` with size in bits (00_scope.md R12; 20_memory.md R51, R53). -/
def State.busLoad (s : State) (addr : Word) (size : Nat) : Except FaultReason Word :=
  if busSizeOk size then
    match s.busOffset addr (size / 8) with
    | .ok o => .ok (leValue (readCells s.mem o (size / 8)))
    | .error r => .error r
  else .error (.contractViolation (.accessSize size))

/-- `store(addr, size, value)` with size in bits (00_scope.md R12; 20_memory.md R52, R53). -/
def State.busStore (s : State) (addr : Word) (size : Nat) (v : Word) : Except FaultReason State :=
  if busSizeOk size then
    match s.busOffset addr (size / 8) with
    | .ok o => .ok (s.setMem (writeCells s.mem o (leBytes (size / 8) v)))
    | .error r => .error r
  else .error (.contractViolation (.accessSize size))

/-- `MemRead(addr, n)`, which is `load(addr, 8n)` (00_scope.md R19). -/
def State.memRead (s : State) (addr : Word) (n : Nat) : Except FaultReason Word := s.busLoad addr (8 * n)

/-- `MemWrite(addr, n, v)`, which is `store(addr, 8n, v)` (00_scope.md R19). -/
def State.memWrite (s : State) (addr : Word) (n : Nat) (v : Word) : Except FaultReason State :=
  s.busStore addr (8 * n) v

/-- The RAM byte M[o] (20_memory.md R51). -/
def State.ramByte (s : State) (o : Nat) : Byte := getCell s.mem o

/-! ### The step's own operations -/

/-- Fetch: the four bytes at pc, with no alignment check (20_memory.md R54). -/
def State.fetch (s : State) : Except FaultReason InstWord :=
  match s.memRead s.pc 4 with
  | .ok v => .ok (v.setWidth 32)
  | .error r => .error r

/-- `pc <- pc + 4`, before the instruction executes (10_state.md R27; 60_exceptions.md R159). -/
def State.preAdvance (s : State) : State := s.setPc (s.pc + 4#64)

/-- `raise F(info)`: the step ends, and what it leaves is the state it had, with the engine status Faulted
(00_scope.md R20; 60_exceptions.md R160, R164). A fault of fetch is raised from the state before the pre-advance, a
later one from the state after it; every instruction checks its fault conditions before its first write. -/
def State.raise (s : State) (r : FaultReason) : Host.Outcome State Fault Refusal :=
  .fault (.raised r (s.setStatus (.faulted r)))

/-- The report of a word that decodes to no instruction (60_exceptions.md R165). -/
def decodeFaultOf (w : InstWord) : FaultReason := .decodeFault w (opcodeOf w)

/-- The halt check after a normal step: pc exactly zero halts the core (60_exceptions.md R161). -/
def haltCheck (o : Host.Outcome State Fault Refusal) : Host.Outcome State Fault Refusal :=
  match o with
  | .next t => .next (if t.pc = 0#64 then t.setStatus .halted else t)
  | .fault r => .fault r
  | .refused r => .refused r

/-! ### Return from a trap -/

/-- `v` with bit `i` set to `b`. -/
def withBit (v : Word) (i : Nat) (b : Bool) : Word :=
  if b then v ||| (1#64 <<< i) else v &&& ~~~(1#64 <<< i)

/-- What `sret` and `mret` share: pc from the saved pc, the mode from the previous-privilege field, and the status
register written back (47_system.md R155, R156). -/
def State.trapReturn (s : State) (target : Word) (m : Mode) (statusCsr : CsrAddr) (status : Word) : State :=
  ((s.setPc target).setMode m).csrWrite statusCsr status

/-! ### Placing an instruction -/

/-- The state with the bytes put in Memory where the next fetch reads them, if pc lies at or above RAM_BASE; a
stand-in for the image a core is constructed from (log entry 7). Bytes past the end of RAM are dropped. -/
def State.placeAtPc (s : State) (bytes : List Byte) : State :=
  if s.pc.toNat < s.cfg.ramBase.toNat then s
  else
    let o := s.pc.toNat - s.cfg.ramBase.toNat
    s.setMem (writeCells s.mem o (bytes.take (s.cfg.ramSize - o)))

end Sys2Proof.Machine
end

