-- ==== Sys2Proof/Machine/Operands.lean ====
section
/-! DEFINITION. Every operand form the spec gives: extensions (00_scope.md R17), 64-bit immediates (30_encoding.md
R71 to R75), effective addresses (40_loads.md R85; 43_stores.md R110; 44_atomics.md R115), word slices, and the
shift and rotate functions (00_scope.md R16; 41_alu_immediate.md R93, R94). -/

namespace Sys2Proof.Machine

/-! ### Extensions (00_scope.md R17) -/

/-- `sext_N`: the low `n` bits of `v`, sign-extended to 64. -/
def sextLow (n : Nat) (v : Word) : Word := (v.setWidth n).signExtend 64

/-- `zext_N`: the low `n` bits of `v`, zero-extended to 64. -/
def zextLow (n : Nat) (v : Word) : Word := (v.setWidth n).setWidth 64

/-- `trunc_32`. -/
def trunc32 (v : Word) : Slice := v.setWidth 32

/-- `sext_32` of a 32-bit result. -/
def sext32 (w : Slice) : Word := w.signExtend 64

/-! ### Immediates (30_encoding.md R71 to R75) -/

/-- imm_I, and imm_S, which has the same 12 bits (R71, R72). -/
def imm12 (imm : BitVec 12) : Word := imm.signExtend 64

/-- imm_B (R73). -/
def immB (imm : BitVec 13) : Word := imm.signExtend 64

/-- imm_U: the upper 20 bits of a 32-bit value, sign-extended from bit 31 (R74). -/
def immU (imm20 : BitVec 20) : Word := sext32 (imm20 ++ 0#12)

/-- imm_J (R75). -/
def immJ (imm : BitVec 21) : Word := imm.signExtend 64

/-- The CSR immediate, `zext_5(zimm)` (30_encoding.md R69; 47_system.md R148). -/
def immZ (zimm : BitVec 5) : Word := zimm.setWidth 64

/-! ### Effective addresses -/

/-- A load's address: x[rs1] + imm_I, not masked (40_loads.md R85). -/
def State.loadAddr (s : State) (rs1 : RegIx) (imm : BitVec 12) : Word := s.readX rs1 + imm12 imm

/-- A store's address: x[rs1] + imm_S, masked to 32 bits (43_stores.md R110). -/
def State.storeAddr (s : State) (rs1 : RegIx) (imm : BitVec 12) : Word :=
  (s.readX rs1 + imm12 imm) &&& 0xFFFFFFFF#64

/-- An AMO's address: x[rs1], no offset, not masked (44_atomics.md R115). -/
def State.amoAddr (s : State) (rs1 : RegIx) : Word := s.readX rs1

/-! ### Shift amounts -/

/-- x[rs2][5:0], the shift amount of `sll`, `srl`, `sra` (45_alu_register.md R123). -/
def shiftAmount6 (v : Word) : Nat := (v.setWidth 6).toNat

/-- x[rs2][4:0], the shift amount of `sllw`, `srlw`, `sraw` (45_alu_register.md R134). -/
def shiftAmount5 (v : Word) : Nat := (v.setWidth 5).toNat

/-! ### Shifts and rotates on a W-bit value (00_scope.md R16) -/

/-- `lsl_W`. -/
def lsl {W : Nat} (v : BitVec W) (s : Nat) : BitVec W := v <<< s

/-- `lsr_W`. -/
def lsr {W : Nat} (v : BitVec W) (s : Nat) : BitVec W := v >>> s

/-- `asr_W`. -/
def asr {W : Nat} (v : BitVec W) (s : Nat) : BitVec W := v.sshiftRight s

/-- `rotl_W`. -/
def rotl {W : Nat} (v : BitVec W) (s : Nat) : BitVec W := lsl v s ||| lsr v (W - s)

/-- `rotr_W`. -/
def rotr {W : Nat} (v : BitVec W) (s : Nat) : BitVec W := lsr v s ||| lsl v (W - s)

/-! ### The source's shifts, under SHIFT64_MODE (W = 64, R93) or SHIFTW_MODE (W = 32, R94) -/

/-- `qsll64`, `qsll32`. -/
def qsll {W : Nat} (mode : ShiftMode) (v : BitVec W) (s : Nat) : BitVec W :=
  match mode with
  | .quirk => rotl v s
  | .standard => lsl v s

/-- `qsrl64`, `qsrl32`. -/
def qsrl {W : Nat} (mode : ShiftMode) (v : BitVec W) (s : Nat) : BitVec W :=
  match mode with
  | .quirk => rotr v s
  | .standard => lsr v s

/-- `qsra64`, `qsra32`. -/
def qsra {W : Nat} (mode : ShiftMode) (v : BitVec W) (s : Nat) : BitVec W :=
  match mode with
  | .quirk => asr v s ||| lsl v (W - s)
  | .standard => asr v s

end Sys2Proof.Machine
end

