-- ==== Sys2Proof/Machine/Flags.lean ====
section
/-! DEFINITION. The core has no flags and no condition codes (10_state.md R44). What takes their place: the
comparisons the set-less-than instructions write to a register and the branches test (00_scope.md R15;
41_alu_immediate.md R96, R97; 46_control_transfer.md R137). -/

namespace Sys2Proof.Machine

/-- `bool(c)`: 1 if `c` holds, else 0. -/
def boolWord (c : Bool) : Word := if c then 1#64 else 0#64

/-- `a <s b`. -/
def ltSigned (a b : Word) : Bool := decide (a.toInt < b.toInt)

/-- `a <u b`. -/
def ltUnsigned (a b : Word) : Bool := decide (a.toNat < b.toNat)

/-- `a == b`. -/
def eqWords (a b : Word) : Bool := decide (a = b)

end Sys2Proof.Machine
end

