-- ==== Sys2Proof/Machine/AluImm.lean ====
section
/-! DEFINITION. The register-immediate ALU instructions, opcodes 0x13 and 0x1b (41_alu_immediate.md R95 to R107).
None can fault. `slli` and `slliw` are plain shifts, the others rotate-style unless a switch says standard (R93, R94;
90_conflicts.md C2). -/

namespace Sys2Proof.Machine

/-! ### OP-IMM -/

/-- `addi` (R95). -/
def execAddi (rd rs1 : RegIx) (imm : BitVec 12) (s : State) : Host.Outcome State Fault Refusal :=
  .next (s.writeX rd (s.readX rs1 + imm12 imm))

/-- `slti` (R96). -/
def execSlti (rd rs1 : RegIx) (imm : BitVec 12) (s : State) : Host.Outcome State Fault Refusal :=
  .next (s.writeX rd (boolWord (ltSigned (s.readX rs1) (imm12 imm))))

/-- `sltiu` (R97): the immediate is sign-extended, then compared unsigned. -/
def execSltiu (rd rs1 : RegIx) (imm : BitVec 12) (s : State) : Host.Outcome State Fault Refusal :=
  .next (s.writeX rd (boolWord (ltUnsigned (s.readX rs1) (imm12 imm))))

/-- `xori` (R98). -/
def execXori (rd rs1 : RegIx) (imm : BitVec 12) (s : State) : Host.Outcome State Fault Refusal :=
  .next (s.writeX rd (s.readX rs1 ^^^ imm12 imm))

/-- `ori` (R99). -/
def execOri (rd rs1 : RegIx) (imm : BitVec 12) (s : State) : Host.Outcome State Fault Refusal :=
  .next (s.writeX rd (s.readX rs1 ||| imm12 imm))

/-- `andi` (R100). -/
def execAndi (rd rs1 : RegIx) (imm : BitVec 12) (s : State) : Host.Outcome State Fault Refusal :=
  .next (s.writeX rd (s.readX rs1 &&& imm12 imm))

/-- `slli` (R101), a plain shift. -/
def execSlli (rd rs1 : RegIx) (shamt : BitVec 6) (s : State) : Host.Outcome State Fault Refusal :=
  .next (s.writeX rd (lsl (s.readX rs1) shamt.toNat))

/-- `srli` (R102). -/
def execSrli (rd rs1 : RegIx) (shamt : BitVec 6) (s : State) : Host.Outcome State Fault Refusal :=
  .next (s.writeX rd (qsrl s.cfg.shift64Mode (s.readX rs1) shamt.toNat))

/-- `srai` (R103). -/
def execSrai (rd rs1 : RegIx) (shamt : BitVec 6) (s : State) : Host.Outcome State Fault Refusal :=
  .next (s.writeX rd (qsra s.cfg.shift64Mode (s.readX rs1) shamt.toNat))

/-! ### OP-IMM-32: on the low 32 bits of x[rs1], the 32-bit result sign-extended -/

/-- `addiw` (R104). -/
def execAddiw (rd rs1 : RegIx) (imm : BitVec 12) (s : State) : Host.Outcome State Fault Refusal :=
  .next (s.writeX rd (sext32 (trunc32 (s.readX rs1) + trunc32 (imm12 imm))))

/-- `slliw` (R105), a plain shift. -/
def execSlliw (rd rs1 : RegIx) (shamt : BitVec 5) (s : State) : Host.Outcome State Fault Refusal :=
  .next (s.writeX rd (sext32 (lsl (trunc32 (s.readX rs1)) shamt.toNat)))

/-- `srliw` (R106). -/
def execSrliw (rd rs1 : RegIx) (shamt : BitVec 5) (s : State) : Host.Outcome State Fault Refusal :=
  .next (s.writeX rd (sext32 (qsrl s.cfg.shiftWMode (trunc32 (s.readX rs1)) shamt.toNat)))

/-- `sraiw` (R107). -/
def execSraiw (rd rs1 : RegIx) (shamt : BitVec 5) (s : State) : Host.Outcome State Fault Refusal :=
  .next (s.writeX rd (sext32 (qsra s.cfg.shiftWMode (trunc32 (s.readX rs1)) shamt.toNat)))

end Sys2Proof.Machine
end

