-- ==== Sys2Proof/Machine/AluReg.lean ====
section
/-! DEFINITION. The register-register ALU instructions, opcodes 0x33 and 0x3b (45_alu_register.md R120 to R136).
None can fault. The shifts are rotate-style unless a switch says standard (41_alu_immediate.md R93, R94). -/

namespace Sys2Proof.Machine

/-! ### OP -/

/-- `add` (R120). -/
def execAdd (rd rs1 rs2 : RegIx) (s : State) : Host.Outcome State Fault Refusal :=
  .next (s.writeX rd (s.readX rs1 + s.readX rs2))

/-- `sub` (R121). -/
def execSub (rd rs1 rs2 : RegIx) (s : State) : Host.Outcome State Fault Refusal :=
  .next (s.writeX rd (s.readX rs1 - s.readX rs2))

/-- `mul` (R122): the low 64 bits of the product. -/
def execMul (rd rs1 rs2 : RegIx) (s : State) : Host.Outcome State Fault Refusal :=
  .next (s.writeX rd (s.readX rs1 * s.readX rs2))

/-- `sll` (R123). -/
def execSll (rd rs1 rs2 : RegIx) (s : State) : Host.Outcome State Fault Refusal :=
  .next (s.writeX rd (qsll s.cfg.shift64Mode (s.readX rs1) (shiftAmount6 (s.readX rs2))))

/-- `slt` (R124). -/
def execSlt (rd rs1 rs2 : RegIx) (s : State) : Host.Outcome State Fault Refusal :=
  .next (s.writeX rd (boolWord (ltSigned (s.readX rs1) (s.readX rs2))))

/-- `sltu` (R125). -/
def execSltu (rd rs1 rs2 : RegIx) (s : State) : Host.Outcome State Fault Refusal :=
  .next (s.writeX rd (boolWord (ltUnsigned (s.readX rs1) (s.readX rs2))))

/-- `xor` (R126). -/
def execXor (rd rs1 rs2 : RegIx) (s : State) : Host.Outcome State Fault Refusal :=
  .next (s.writeX rd (s.readX rs1 ^^^ s.readX rs2))

/-- `srl` (R127). -/
def execSrl (rd rs1 rs2 : RegIx) (s : State) : Host.Outcome State Fault Refusal :=
  .next (s.writeX rd (qsrl s.cfg.shift64Mode (s.readX rs1) (shiftAmount6 (s.readX rs2))))

/-- `sra` (R128). -/
def execSra (rd rs1 rs2 : RegIx) (s : State) : Host.Outcome State Fault Refusal :=
  .next (s.writeX rd (qsra s.cfg.shift64Mode (s.readX rs1) (shiftAmount6 (s.readX rs2))))

/-- `or` (R129). -/
def execOr (rd rs1 rs2 : RegIx) (s : State) : Host.Outcome State Fault Refusal :=
  .next (s.writeX rd (s.readX rs1 ||| s.readX rs2))

/-- `and` (R130). -/
def execAnd (rd rs1 rs2 : RegIx) (s : State) : Host.Outcome State Fault Refusal :=
  .next (s.writeX rd (s.readX rs1 &&& s.readX rs2))

/-! ### OP-32: on the low 32 bits of both sources, the 32-bit result sign-extended -/

/-- `addw` (R131). -/
def execAddw (rd rs1 rs2 : RegIx) (s : State) : Host.Outcome State Fault Refusal :=
  .next (s.writeX rd (sext32 (trunc32 (s.readX rs1) + trunc32 (s.readX rs2))))

/-- `subw` (R132). -/
def execSubw (rd rs1 rs2 : RegIx) (s : State) : Host.Outcome State Fault Refusal :=
  .next (s.writeX rd (sext32 (trunc32 (s.readX rs1) - trunc32 (s.readX rs2))))

/-- `mulw` (R133), which only a core with HAS_MULW decodes. -/
def execMulw (rd rs1 rs2 : RegIx) (s : State) : Host.Outcome State Fault Refusal :=
  .next (s.writeX rd (sext32 (trunc32 (s.readX rs1) * trunc32 (s.readX rs2))))

/-- `sllw` (R134). -/
def execSllw (rd rs1 rs2 : RegIx) (s : State) : Host.Outcome State Fault Refusal :=
  .next (s.writeX rd (sext32 (qsll s.cfg.shiftWMode (trunc32 (s.readX rs1)) (shiftAmount5 (s.readX rs2)))))

/-- `srlw` (R135). -/
def execSrlw (rd rs1 rs2 : RegIx) (s : State) : Host.Outcome State Fault Refusal :=
  .next (s.writeX rd (sext32 (qsrl s.cfg.shiftWMode (trunc32 (s.readX rs1)) (shiftAmount5 (s.readX rs2)))))

/-- `sraw` (R136). -/
def execSraw (rd rs1 rs2 : RegIx) (s : State) : Host.Outcome State Fault Refusal :=
  .next (s.writeX rd (sext32 (qsra s.cfg.shiftWMode (trunc32 (s.readX rs1)) (shiftAmount5 (s.readX rs2)))))

end Sys2Proof.Machine
end

