-- ==== Sys2Proof/Machine/Atomics.lean ====
section
/-! DEFINITION. The atomic memory operations, opcode 0x2f (44_atomics.md R115 to R119). The acquire and release bits
are parsed and ignored (R115), so no meaning reads them. -/

namespace Sys2Proof.Machine

/-- What the AMOs share (R115): read `n` bytes at x[rs1], write the new value there, then write the old value,
extended, to rd. x[rs1] and x[rs2] are read before any write; the read is checked first, and a fault ends the step
with nothing written. -/
def State.amo (s : State) (n : Nat) (combine : Word → Word → Word) (extend : Word → Word) (rd rs2 rs1 : RegIx) :
    Host.Outcome State Fault Refusal :=
  match s.memRead (s.amoAddr rs1) n with
  | .error r => s.raise r
  | .ok old =>
    match s.memWrite (s.amoAddr rs1) n (combine old (s.readX rs2)) with
    | .error r => s.raise r
    | .ok t => .next (t.writeX rd (extend old))

/-- AMOW_RD_EXT: the extension of a 32-bit AMO's old word (R116). -/
def amowExtend (mode : AmoExt) (old : Word) : Word :=
  match mode with
  | .zext => zextLow 32 old
  | .sext => sextLow 32 old

/-- The new value of an add; MemWrite keeps its low bytes, so it is the sum modulo 2^32 or 2^64 (R116, R118). -/
def amoSum (old b : Word) : Word := old + b

/-- The new value of a swap (R117, R119). -/
def amoSwap (_old b : Word) : Word := b

/-- `amoadd.w` (R116). -/
def execAmoaddW (rd rs2 rs1 : RegIx) (s : State) : Host.Outcome State Fault Refusal :=
  s.amo 4 amoSum (amowExtend s.cfg.amowRdExt) rd rs2 rs1

/-- `amoswap.w` (R117). -/
def execAmoswapW (rd rs2 rs1 : RegIx) (s : State) : Host.Outcome State Fault Refusal :=
  s.amo 4 amoSwap (amowExtend s.cfg.amowRdExt) rd rs2 rs1

/-- `amoadd.d` (R118). -/
def execAmoaddD (rd rs2 rs1 : RegIx) (s : State) : Host.Outcome State Fault Refusal :=
  s.amo 8 amoSum (fun old => old) rd rs2 rs1

/-- `amoswap.d` (R119). -/
def execAmoswapD (rd rs2 rs1 : RegIx) (s : State) : Host.Outcome State Fault Refusal :=
  s.amo 8 amoSwap (fun old => old) rd rs2 rs1

end Sys2Proof.Machine
end

