-- ==== Sys2Proof/Machine/Control.lean ====
section
/-! DEFINITION. Branches, `jalr` and `jal`, opcodes 0x63, 0x67 and 0x6f (46_control_transfer.md R137 to R146). pc is
the pre-advanced pc throughout, and no target is checked (R146). -/

namespace Sys2Proof.Machine

/-- What the branches share (R137): `if cond then pc <- pc + imm_B - 4`. No register is written. -/
def State.branch (s : State) (taken : Bool) (imm : BitVec 13) : Host.Outcome State Fault Refusal :=
  .next (if taken then s.setPc (s.pc + immB imm - 4#64) else s)

/-- `beq` (R138). -/
def execBeq (rs1 rs2 : RegIx) (imm : BitVec 13) (s : State) : Host.Outcome State Fault Refusal :=
  s.branch (eqWords (s.readX rs1) (s.readX rs2)) imm

/-- `bne` (R139). -/
def execBne (rs1 rs2 : RegIx) (imm : BitVec 13) (s : State) : Host.Outcome State Fault Refusal :=
  s.branch (!eqWords (s.readX rs1) (s.readX rs2)) imm

/-- `blt` (R140). -/
def execBlt (rs1 rs2 : RegIx) (imm : BitVec 13) (s : State) : Host.Outcome State Fault Refusal :=
  s.branch (ltSigned (s.readX rs1) (s.readX rs2)) imm

/-- `bge` (R141). -/
def execBge (rs1 rs2 : RegIx) (imm : BitVec 13) (s : State) : Host.Outcome State Fault Refusal :=
  s.branch (!ltSigned (s.readX rs1) (s.readX rs2)) imm

/-- `bltu` (R142). -/
def execBltu (rs1 rs2 : RegIx) (imm : BitVec 13) (s : State) : Host.Outcome State Fault Refusal :=
  s.branch (ltUnsigned (s.readX rs1) (s.readX rs2)) imm

/-- `bgeu` (R143). -/
def execBgeu (rs1 rs2 : RegIx) (imm : BitVec 13) (s : State) : Host.Outcome State Fault Refusal :=
  s.branch (!ltUnsigned (s.readX rs1) (s.readX rs2)) imm

/-- A target of `jalr`: bit 0 is cleared (R144). -/
def State.jalrTarget (s : State) (rs1 : RegIx) (imm : BitVec 12) : Word := (s.readX rs1 + imm12 imm) &&& ~~~1#64

/-- `jalr` (R144): the target reads x[rs1] before the link is written, or after it where SEQUENTIAL_LINK is true. -/
def execJalr (rd rs1 : RegIx) (imm : BitVec 12) (s : State) : Host.Outcome State Fault Refusal :=
  let linked := s.writeX rd s.pc
  .next (linked.setPc (if s.cfg.sequentialLink then linked.jalrTarget rs1 imm else s.jalrTarget rs1 imm))

/-- `jal` (R145): the link is the pre-advanced pc, the target pc + imm_J - 4. -/
def execJal (rd : RegIx) (imm : BitVec 21) (s : State) : Host.Outcome State Fault Refusal :=
  .next ((s.writeX rd s.pc).setPc (s.pc + immJ imm - 4#64))

end Sys2Proof.Machine
end

