-- ==== Sys2Proof/Machine/Loads.lean ====
section
/-! DEFINITION. The loads, opcode 0x03 (40_loads.md R85 to R92). -/

namespace Sys2Proof.Machine

/-- What the loads share (R85): read `n` bytes at x[rs1] + imm_I, extend them, write rd. A fault of the read ends the
step before rd is written; rd = x0 drops the value only. -/
def State.load (s : State) (n : Nat) (extend : Word → Word) (rd rs1 : RegIx) (imm : BitVec 12) :
    Host.Outcome State Fault Refusal :=
  match s.memRead (s.loadAddr rs1 imm) n with
  | .ok v => .next (s.writeX rd (extend v))
  | .error r => s.raise r

/-- `lb` (R86). -/
def execLb (rd rs1 : RegIx) (imm : BitVec 12) (s : State) : Host.Outcome State Fault Refusal :=
  s.load 1 (sextLow 8) rd rs1 imm

/-- `lh` (R87). -/
def execLh (rd rs1 : RegIx) (imm : BitVec 12) (s : State) : Host.Outcome State Fault Refusal :=
  s.load 2 (sextLow 16) rd rs1 imm

/-- `lw` (R88). -/
def execLw (rd rs1 : RegIx) (imm : BitVec 12) (s : State) : Host.Outcome State Fault Refusal :=
  s.load 4 (sextLow 32) rd rs1 imm

/-- `ld` (R89): 64 bits need no extension. -/
def execLd (rd rs1 : RegIx) (imm : BitVec 12) (s : State) : Host.Outcome State Fault Refusal :=
  s.load 8 (fun v => v) rd rs1 imm

/-- `lbu` (R90). -/
def execLbu (rd rs1 : RegIx) (imm : BitVec 12) (s : State) : Host.Outcome State Fault Refusal :=
  s.load 1 (zextLow 8) rd rs1 imm

/-- `lhu` (R91). -/
def execLhu (rd rs1 : RegIx) (imm : BitVec 12) (s : State) : Host.Outcome State Fault Refusal :=
  s.load 2 (zextLow 16) rd rs1 imm

/-- `lwu` (R92). -/
def execLwu (rd rs1 : RegIx) (imm : BitVec 12) (s : State) : Host.Outcome State Fault Refusal :=
  s.load 4 (zextLow 32) rd rs1 imm

end Sys2Proof.Machine
end

