-- ==== Sys2Proof/Machine/Stores.lean ====
section
/-! DEFINITION. The stores, opcode 0x23 (43_stores.md R110 to R114). -/

namespace Sys2Proof.Machine

/-- What the stores share (R110): write the low `n` bytes of x[rs2] at (x[rs1] + imm_S) & 0xFFFF_FFFF. A fault ends
the step with no byte written. -/
def State.store (s : State) (n : Nat) (rs2 rs1 : RegIx) (imm : BitVec 12) : Host.Outcome State Fault Refusal :=
  match s.memWrite (s.storeAddr rs1 imm) n (s.readX rs2) with
  | .ok t => .next t
  | .error r => s.raise r

/-- `sb` (R111). -/
def execSb (rs2 rs1 : RegIx) (imm : BitVec 12) (s : State) : Host.Outcome State Fault Refusal :=
  s.store 1 rs2 rs1 imm

/-- `sh` (R112). -/
def execSh (rs2 rs1 : RegIx) (imm : BitVec 12) (s : State) : Host.Outcome State Fault Refusal :=
  s.store 2 rs2 rs1 imm

/-- `sw` (R113). -/
def execSw (rs2 rs1 : RegIx) (imm : BitVec 12) (s : State) : Host.Outcome State Fault Refusal :=
  s.store 4 rs2 rs1 imm

/-- `sd` (R114). -/
def execSd (rs2 rs1 : RegIx) (imm : BitVec 12) (s : State) : Host.Outcome State Fault Refusal :=
  s.store 8 rs2 rs1 imm

end Sys2Proof.Machine
end

