-- ==== Sys2Proof/Machine/System.lean ====
section
/-! DEFINITION. The system instructions, opcode 0x73 (47_system.md R148 to R158). None checks the mode (R158). -/

namespace Sys2Proof.Machine

/-! ### CSR access (R148 to R154) -/

/-- The new CSR value of the write, set and clear forms, from the old value and the operand (R149 to R151). -/
def csrNewWrite (_old src : Word) : Word := src
/-- Set bits. -/
def csrNewSet (old src : Word) : Word := old ||| src
/-- Clear bits. -/
def csrNewClear (old src : Word) : Word := old &&& ~~~src

/-- What the register forms share (R148): the old value goes to rd, the new value to the CSR, the write always
performed. Every read precedes every write; where SEQUENTIAL_LINK is true rd is written first and x[rs1] read after. -/
def State.csrRegister (s : State) (new : Word → Word → Word) (rd : RegIx) (csr : CsrAddr) (rs1 : RegIx) :
    Host.Outcome State Fault Refusal :=
  let old := s.csrRead csr
  if s.cfg.sequentialLink then
    let linked := s.writeX rd old
    .next (linked.csrWrite csr (new old (linked.readX rs1)))
  else .next ((s.csrWrite csr (new old (s.readX rs1))).writeX rd old)

/-- What the immediate forms share (R148): as the register forms, the operand `zext_5(zimm)`. -/
def State.csrImmediate (s : State) (new : Word → Word → Word) (rd : RegIx) (csr : CsrAddr) (zimm : BitVec 5) :
    Host.Outcome State Fault Refusal :=
  .next ((s.csrWrite csr (new (s.csrRead csr) (immZ zimm))).writeX rd (s.csrRead csr))

/-- `csrrw` (R149). -/
def execCsrrw (rd : RegIx) (csr : CsrAddr) (rs1 : RegIx) (s : State) : Host.Outcome State Fault Refusal :=
  s.csrRegister csrNewWrite rd csr rs1

/-- `csrrs` (R150). -/
def execCsrrs (rd : RegIx) (csr : CsrAddr) (rs1 : RegIx) (s : State) : Host.Outcome State Fault Refusal :=
  s.csrRegister csrNewSet rd csr rs1

/-- `csrrc` (R151). -/
def execCsrrc (rd : RegIx) (csr : CsrAddr) (rs1 : RegIx) (s : State) : Host.Outcome State Fault Refusal :=
  s.csrRegister csrNewClear rd csr rs1

/-- `csrrwi` (R152). -/
def execCsrrwi (rd : RegIx) (csr : CsrAddr) (zimm : BitVec 5) (s : State) : Host.Outcome State Fault Refusal :=
  s.csrImmediate csrNewWrite rd csr zimm

/-- `csrrsi` (R153). -/
def execCsrrsi (rd : RegIx) (csr : CsrAddr) (zimm : BitVec 5) (s : State) : Host.Outcome State Fault Refusal :=
  s.csrImmediate csrNewSet rd csr zimm

/-- `csrrci` (R154). -/
def execCsrrci (rd : RegIx) (csr : CsrAddr) (zimm : BitVec 5) (s : State) : Host.Outcome State Fault Refusal :=
  s.csrImmediate csrNewClear rd csr zimm

/-! ### Trap return and address-translation fence (R155 to R157) -/

/-- SSTATUS after `sret`: SIE (bit 1) takes SPIE (bit 5), SPIE becomes 1, SPP (bit 8) becomes 0 (R155). -/
def sretStatus (v : Word) : Word := withBit (withBit (withBit v 1 (v.getLsbD 5)) 5 true) 8 false

/-- The mode `sret` enters: Supervisor if SPP (bit 8) is 1, else User (R155). -/
def sretMode (v : Word) : Mode := if v.getLsbD 8 then .supervisor else .user

/-- `sret` (R155). -/
def execSret (s : State) : Host.Outcome State Fault Refusal :=
  let v := s.csrRead csrSSTATUS
  .next (s.trapReturn (s.csrRead csrSEPC) (sretMode v) csrSSTATUS (sretStatus v))

/-- MSTATUS after `mret`: MIE (bit 3) takes MPIE (bit 7), MPIE becomes 1, MPP (bits 12:11) becomes 0 (R156). -/
def mretStatus (v : Word) : Word :=
  withBit (withBit (withBit (withBit v 3 (v.getLsbD 7)) 7 true) 11 false) 12 false

/-- The mode `mret` enters from MPP (bits 12:11); for MPP = 2 the one MPP2_BEHAVIOUR names, or none where it says
fault (R156). -/
def mretMode (behaviour : Mpp2Behaviour) (v : Word) : Option Mode :=
  match v.extractLsb' 11 2, behaviour with
  | 0#2, _ => some .user
  | 1#2, _ => some .supervisor
  | 3#2, _ => some .machine
  | _, .user => some .user
  | _, .supervisor => some .supervisor
  | _, .machine => some .machine
  | _, .fault => none

/-- `mret` (R156): the reserved MPP is checked before any change (60_exceptions.md R169). -/
def execMret (s : State) : Host.Outcome State Fault Refusal :=
  let v := s.csrRead csrMSTATUS
  match mretMode s.cfg.mpp2Behaviour v with
  | none => s.raise (.reservedMPP v)
  | some m => .next (s.trapReturn (s.csrRead csrMEPC) m csrMSTATUS (mretStatus v))

/-- `sfence.vma` (R157): accepted, and nothing happens, since there is no TLB. -/
def execSfenceVma (s : State) : Host.Outcome State Fault Refusal := .next s

end Sys2Proof.Machine
end

