-- ==== Sys2Proof/Machine/UpperImm.lean ====
section
/-! DEFINITION. The upper-immediate instructions, opcodes 0x17 and 0x37 (42_upper_immediate.md R108, R109). -/

namespace Sys2Proof.Machine

/-- `auipc` (R108): pc is the pre-advanced pc, so 4 is taken off again. -/
def execAuipc (rd : RegIx) (imm20 : BitVec 20) (s : State) : Host.Outcome State Fault Refusal :=
  .next (s.writeX rd (s.pc + immU imm20 - 4#64))

/-- `lui` (R109). -/
def execLui (rd : RegIx) (imm20 : BitVec 20) (s : State) : Host.Outcome State Fault Refusal :=
  .next (s.writeX rd (immU imm20))

end Sys2Proof.Machine
end

