-- ==== Sys2Proof/Machine/Execute.lean ====
section
/-! DEFINITION. Phases 3 and 4 of a step, for a word that was fetched (60_exceptions.md R159). -/

namespace Sys2Proof.Machine

/-- pc is advanced by 4, then the word is decoded and its instruction executed; a word that decodes to no instruction
is a decode fault, which leaves the pre-advanced pc (60_exceptions.md R159, R164, R165). -/
def State.executeWord (s : State) (w : InstWord) : Host.Outcome State Fault Refusal :=
  match decodeWord s.cfg.hasMulw w with
  | .ok i => haltCheck (exec i s.preAdvance)
  | .error _ => s.preAdvance.raise (decodeFaultOf w)

/-- A step of a Running core: fetch, advance pc, decode, execute, halt check (60_exceptions.md R159, R161). -/
def State.stepRunning (s : State) : Host.Outcome State Fault Refusal :=
  match s.fetch with
  | .ok w => s.executeWord w
  | .error r => s.raise r

end Sys2Proof.Machine
end

