-- ==== Sys2Proof/Machine/Step.lean ====
section
/-! DEFINITION. One step of the core (60_exceptions.md R159 to R163), and where a step finds its instruction. -/

namespace Sys2Proof.Machine

/-- `step()`: a Running core takes a step; from Halted or Faulted there is no transition (60_exceptions.md R159,
R163). A step that halts answers a next state whose status is Halted; one that faults answers the fault. -/
def step (s : State) : Host.Outcome State Fault Refusal :=
  match s.status with
  | .running => s.stepRunning
  | .halted => .fault (.notRunning s)
  | .faulted _ => .fault (.notRunning s)

/-- The state with an instruction whose bits are `w` (of which the opcode table gives `nbits`) stored where the next
fetch reads it: the four bytes at pc. From State.reset this stands for the construction from an image that begins
with the instruction (70_reset_and_hazards.md R182; log entry 7). -/
def State.withFetchWord (s : State) (nbits w : Nat) : State := s.placeAtPc (tableBytes nbits w)

end Sys2Proof.Machine
end

