-- ==== Sys2Proof/Machine/Interfaces.lean ====
section
/-! DEFINITION. The core's interfaces to the outside (00_scope.md R12): construction from an image
(70_reset_and_hazards.md R182, R183), what `step()` and `run()` report (60_exceptions.md R160, R162), observation
(00_scope.md R13) and the trace hook (60_exceptions.md R180). The Bus interface is State.busLoad and State.busStore. -/

namespace Sys2Proof.Machine

/-! ### Construction -/

/-- The draws a core is constructed with: the contents no rule gives a value (00_scope.md R10). -/
structure Draws where
  /-- GPR_INIT; the entries of x0 and x2 are not used. -/
  gpr : Vector Word 32
  /-- FPR_INIT. -/
  fpr : Vector Word 32
  /-- CSR_INIT. -/
  csr : CsrBank
  /-- RAM_INIT; the bytes the image covers are not used. -/
  ram : Memory
  deriving DecidableEq, Repr

/-- The draws State.reset takes: all zero (log entries 3 to 6). -/
def Draws.zero : Draws where
  gpr := Vector.replicate 32 0#64
  fpr := Vector.replicate 32 0#64
  csr := []
  ram := []

/-- The draws are contents of a core with `size` bytes of RAM. -/
def Draws.wf (size : Nat) (d : Draws) : Bool := CsrBank.wf d.csr && Memory.wf size d.ram

/-- Why no core is produced. -/
inductive ConstructError where
  /-- The image is longer than RAM_SIZE - IMAGE_MARGIN (70_reset_and_hazards.md R183). -/
  | imageTooLarge (len : Nat)
  deriving DecidableEq, Repr

/-- `construct(image, len)`: the core in its reset state, the image at the start of RAM (10_state.md R46;
70_reset_and_hazards.md R182), or the error ImageTooLarge (R183). -/
def State.construct (cfg : Config) (d : Draws) (image : List Byte) : Except ConstructError State :=
  if image.length ≤ cfg.ramSize - cfg.imageMargin then
    .ok {
      cfg := cfg
      pc := cfg.ramBase
      x := (d.gpr.set 0 0#64).set 2 (cfg.ramBase + BitVec.ofNat 64 cfg.ramSize)
      f := d.fpr
      csr := d.csr
      mode := .machine
      mem := writeCells d.ram 0 image
      status := .running }
  else .error (.imageTooLarge image.length)

/-! ### Observation: read-only, without side effects -/

/-- `read_pc()`. -/
def State.observePc (s : State) : Word := s.pc

/-- `read_x(i)`: an index of 32 or more is refused as a contract violation (60_exceptions.md R168). -/
def State.observeX (s : State) (i : Nat) : Except Violation Word :=
  if i < 32 then .ok (s.readX (BitVec.ofNat 5 i)) else .error (.registerIndex i)

/-- `read_csr(a)`, through the bank's read, so SIE reads as the alias (00_scope.md R13). -/
def State.observeCsr (s : State) (a : CsrAddr) : Word := s.csrRead a

/-! ### Control -/

/-- What `step()` returns (60_exceptions.md R160). -/
inductive StepReport where
  | continued
  | halted
  | faulted (reason : FaultReason)
  /-- No step was taken: the core was Halted or Faulted before (R163). -/
  | noTransition
  deriving DecidableEq, Repr

/-- The report of a step's outcome. No step is refused (every instruction has its meaning), so a refusal has no
report. -/
def stepReport (o : Host.Outcome State Fault Refusal) : Option StepReport :=
  match o with
  | .next t => some (if t.status = .halted then .halted else .continued)
  | .fault (.raised r _) => some (.faulted r)
  | .fault (.notRunning _) => some .noTransition
  | .refused _ => none

/-- How a run ended (60_exceptions.md R162, R163). -/
inductive RunEnd where
  /-- Halted, with the state the last step left. -/
  | halted (last : State)
  /-- A decode fault or a fatal fault, with the state it left. -/
  | faulted (reason : FaultReason) (left : State)
  /-- The core was not Running when a step was due. -/
  | noTransition (left : State)
  /-- The fuel ran out: no outcome of the hardware (70_reset_and_hazards.md R188). -/
  | outOfFuel (last : State)
  deriving DecidableEq, Repr

/-- `run()` under fuel: steps until the core halts or faults (60_exceptions.md R162; 70_reset_and_hazards.md R188). -/
def State.run (fuel : Nat) (s : State) : RunEnd :=
  match fuel with
  | 0 => .outOfFuel s
  | n + 1 =>
    match step s with
    | .next t => if t.status = .halted then .halted t else State.run n t
    | .fault (.raised r left) => .faulted r left
    | .fault (.notRunning left) => .noTransition left
    | .refused _ => .noTransition s

/-! ### Trace -/

/-- What the trace hook is given (60_exceptions.md R180). -/
structure TraceRecord where
  pc : Word
  raw : InstWord
  mnemonic : String
  deriving DecidableEq, Repr

/-- The mnemonic of spec/opcode_table.json. -/
def mnemonicOf : Instr → String
  | .lb _ _ _ => "lb"
  | .lh _ _ _ => "lh"
  | .lw _ _ _ => "lw"
  | .ld _ _ _ => "ld"
  | .lbu _ _ _ => "lbu"
  | .lhu _ _ _ => "lhu"
  | .lwu _ _ _ => "lwu"
  | .addi _ _ _ => "addi"
  | .slti _ _ _ => "slti"
  | .sltiu _ _ _ => "sltiu"
  | .xori _ _ _ => "xori"
  | .ori _ _ _ => "ori"
  | .andi _ _ _ => "andi"
  | .slli _ _ _ => "slli"
  | .srli _ _ _ => "srli"
  | .srai _ _ _ => "srai"
  | .addiw _ _ _ => "addiw"
  | .slliw _ _ _ => "slliw"
  | .srliw _ _ _ => "srliw"
  | .sraiw _ _ _ => "sraiw"
  | .auipc _ _ => "auipc"
  | .lui _ _ => "lui"
  | .sb _ _ _ => "sb"
  | .sh _ _ _ => "sh"
  | .sw _ _ _ => "sw"
  | .sd _ _ _ => "sd"
  | .amoaddW _ _ _ _ _ => "amoadd.w"
  | .amoswapW _ _ _ _ _ => "amoswap.w"
  | .amoaddD _ _ _ _ _ => "amoadd.d"
  | .amoswapD _ _ _ _ _ => "amoswap.d"
  | .add _ _ _ => "add"
  | .sub _ _ _ => "sub"
  | .mul _ _ _ => "mul"
  | .sll _ _ _ => "sll"
  | .slt _ _ _ => "slt"
  | .sltu _ _ _ => "sltu"
  | .xor _ _ _ => "xor"
  | .srl _ _ _ => "srl"
  | .sra _ _ _ => "sra"
  | .or _ _ _ => "or"
  | .and _ _ _ => "and"
  | .addw _ _ _ => "addw"
  | .subw _ _ _ => "subw"
  | .mulw _ _ _ => "mulw"
  | .sllw _ _ _ => "sllw"
  | .srlw _ _ _ => "srlw"
  | .sraw _ _ _ => "sraw"
  | .beq _ _ _ => "beq"
  | .bne _ _ _ => "bne"
  | .blt _ _ _ => "blt"
  | .bge _ _ _ => "bge"
  | .bltu _ _ _ => "bltu"
  | .bgeu _ _ _ => "bgeu"
  | .jalr _ _ _ => "jalr"
  | .jal _ _ => "jal"
  | .csrrw _ _ _ => "csrrw"
  | .csrrs _ _ _ => "csrrs"
  | .csrrc _ _ _ => "csrrc"
  | .csrrwi _ _ _ => "csrrwi"
  | .csrrsi _ _ _ => "csrrsi"
  | .csrrci _ _ _ => "csrrci"
  | .sret => "sret"
  | .mret => "mret"
  | .sfenceVma _ _ => "sfence.vma"

/-- The record the hook gets in the next step, after decode and before execute; none where the core is not Running or
the word faults at fetch or decode (60_exceptions.md R180). It observes only: `step` does not read it. -/
def State.traceOf (s : State) : Option TraceRecord :=
  match s.status with
  | .running =>
    match s.fetch with
    | .ok w =>
      match decodeWord s.cfg.hasMulw w with
      | .ok i => some { pc := s.pc, raw := w, mnemonic := mnemonicOf i }
      | .error _ => none
    | .error _ => none
  | _ => none

end Sys2Proof.Machine
end

