-- ==== Sys2Proof/Safety.lean ====
section
/-! DEFINITION. What a claim about this core is stated in: the invariant every step keeps, what an instruction changes
and leaves unchanged, the spec's arithmetic on naturals and integers (00_scope.md R14 to R17), and the opcode table. -/

namespace Sys2Proof.Machine

/-! ### The invariant -/

/-- What holds of a core at construction and after every step: the parameters meet their constraints (00_scope.md
R10), RAM and the CSR bank are in canonical form and within bounds (20_memory.md R51; 10_state.md R32, R35), and x0
is pinned to zero (10_state.md R21). -/
def State.wf (s : State) : Bool :=
  s.cfg.wf && Memory.wf s.cfg.ramSize s.mem && CsrBank.wf s.csr && decide (s.x[0] = 0#64)

/-! ### What an instruction changes and leaves unchanged -/

/-- Every integer register reads as before. -/
def SameRegs (s t : State) : Prop := ∀ r, t.readX r = s.readX r

/-- Every CSR address, the alias SIE among them, reads as before. -/
def SameCsrs (s t : State) : Prop := ∀ a, t.csrRead a = s.csrRead a

/-- Every byte of RAM reads as before. -/
def SameRam (s t : State) : Prop := ∀ o, t.ramByte o = s.ramByte o

/-- The floating-point registers, the engine status and the parameters are as before. -/
def SameHidden (s t : State) : Prop := t.f = s.f ∧ t.status = s.status ∧ t.cfg = s.cfg

/-- Register `rd` holds `v` (x0 holds 0), and every other register reads as before. -/
def RegBecomes (s t : State) (rd : RegIx) (v : Word) : Prop :=
  t.readX rd = (if rd = 0#5 then 0#64 else v) ∧ ∀ r, r ≠ rd → t.readX r = s.readX r

/-- From `s`, the state after the pre-advance of pc, an instruction writes `v` to `rd` and changes nothing else. -/
def WritesOnly (s t : State) (rd : RegIx) (v : Word) : Prop :=
  RegBecomes s t rd v ∧ t.pc = s.pc ∧ t.mode = s.mode ∧ SameCsrs s t ∧ SameRam s t ∧ SameHidden s t

/-- The instruction completes, writes `v` to `rd` and changes nothing else. -/
def CompletesWriting (i : Instr) (s : State) (rd : RegIx) (v : Word) : Prop :=
  ∃ t, exec i s = .next t ∧ WritesOnly s t rd v

/-- The outcome is the fault `r`, and the state it leaves is `s` with the engine status Faulted (60_exceptions.md
R164). -/
def FaultsFrom (o : Host.Outcome State Fault Refusal) (s : State) (r : FaultReason) : Prop :=
  o = .fault (.raised r { s with status := .faulted r })

/-! ### Memory in the spec's terms -/

/-- An `n`-byte access at `a` lies in RAM (20_memory.md R49, R50). -/
def InRam (s : State) (a : Word) (n : Nat) : Prop :=
  s.cfg.ramBase.toNat ≤ a.toNat ∧ a.toNat - s.cfg.ramBase.toNat + n ≤ s.cfg.ramSize

/-- The Memory offset of an address in RAM (20_memory.md R48). -/
def offsetOf (s : State) (a : Word) : Nat := a.toNat - s.cfg.ramBase.toNat

/-- The fault of an `n`-byte access at `a` that does not lie in RAM (20_memory.md R49, R50). -/
def accessFault (s : State) (a : Word) (n : Nat) : FaultReason :=
  if a.toNat < s.cfg.ramBase.toNat then .unimplementedMMIO a else .memOutOfRange a n

/-- The number the `n` RAM bytes from offset `o` up spell, the lowest address least significant (20_memory.md R51). -/
def ramNat (s : State) (o : Nat) : Nat → Nat
  | 0 => 0
  | n + 1 => (s.ramByte o).toNat + 256 * ramNat s (o + 1) n

/-- The `n` RAM bytes from offset `o` up become the low bytes of `v`, and no other byte changes (20_memory.md R52). -/
def RamBecomes (s t : State) (o n : Nat) (v : Word) : Prop :=
  (∀ k, k < n → t.ramByte (o + k) = v.extractLsb' (8 * k) 8)
    ∧ ∀ p, (p < o ∨ o + n ≤ p) → t.ramByte p = s.ramByte p

/-- The instruction completes, stores the low `n` bytes of `v` at `a` and changes nothing else. -/
def CompletesStoring (i : Instr) (s : State) (a : Word) (n : Nat) (v : Word) : Prop :=
  ∃ t, exec i s = .next t ∧ RamBecomes s t (offsetOf s a) n v
    ∧ SameRegs s t ∧ t.pc = s.pc ∧ t.mode = s.mode ∧ SameCsrs s t ∧ SameHidden s t

/-- The instruction completes, stores the low `n` bytes of `v` at `a`, writes `old` to `rd` and changes nothing else. -/
def CompletesSwapping (i : Instr) (s : State) (a : Word) (n : Nat) (v : Word) (rd : RegIx) (old : Word) : Prop :=
  ∃ t, exec i s = .next t ∧ RamBecomes s t (offsetOf s a) n v ∧ RegBecomes s t rd old
    ∧ t.pc = s.pc ∧ t.mode = s.mode ∧ SameCsrs s t ∧ SameHidden s t

/-- The instruction completes, leaves pc at `target` and changes nothing else. -/
def CompletesJumping (i : Instr) (s : State) (target : Word) : Prop :=
  ∃ t, exec i s = .next t ∧ t.pc = target ∧ SameRegs s t ∧ t.mode = s.mode ∧ SameCsrs s t ∧ SameRam s t
    ∧ SameHidden s t

/-- The instruction completes, leaves pc at `target`, writes `link` to `rd` and changes nothing else. -/
def CompletesLinking (i : Instr) (s : State) (target : Word) (rd : RegIx) (link : Word) : Prop :=
  ∃ t, exec i s = .next t ∧ t.pc = target ∧ RegBecomes s t rd link ∧ t.mode = s.mode ∧ SameCsrs s t ∧ SameRam s t
    ∧ SameHidden s t

/-- The CSR bank after `csr_write(a, v)`: through the alias SIE the delegated bits of MIE, else the slot `a`; every
other slot is as before (10_state.md R34). -/
def CsrBecomes (s t : State) (a : CsrAddr) (v : Word) : Prop :=
  if a = 0x104#12 then
    t.csrSlot 0x304#12 = ((s.csrSlot 0x304#12 &&& ~~~(s.csrSlot 0x303#12)) ||| (v &&& s.csrSlot 0x303#12))
      ∧ ∀ b, b ≠ 0x304#12 → t.csrSlot b = s.csrSlot b
  else t.csrSlot a = v ∧ ∀ b, b ≠ a → t.csrSlot b = s.csrSlot b

/-- The instruction completes, writes `v` to the CSR `a` and `old` to `rd`, and changes nothing else. -/
def CompletesCsr (i : Instr) (s : State) (a : CsrAddr) (v : Word) (rd : RegIx) (old : Word) : Prop :=
  ∃ t, exec i s = .next t ∧ CsrBecomes s t a v ∧ RegBecomes s t rd old
    ∧ t.pc = s.pc ∧ t.mode = s.mode ∧ SameRam s t ∧ SameHidden s t

/-- The instruction completes a return from a trap: pc from `target`, the mode `m`, the status register `a` holding
`v`, and nothing else changed. -/
def CompletesReturning (i : Instr) (s : State) (target : Word) (m : Mode) (a : CsrAddr) (v : Word) : Prop :=
  ∃ t, exec i s = .next t ∧ t.pc = target ∧ t.mode = m ∧ CsrBecomes s t a v
    ∧ SameRegs s t ∧ SameRam s t ∧ SameHidden s t

/-! ### The spec's arithmetic (00_scope.md R15, R16) -/

/-- An integer as a 64-bit value, modulo 2^64. -/
def wordOfInt (z : Int) : Word := BitVec.ofInt 64 z

/-- `bool(c)`. -/
def boolValue (c : Prop) [Decidable c] : Word := if c then 1#64 else 0#64

/-- The low 32 bits of a register as a number. -/
def low32 (v : Word) : Nat := v.toNat % 2 ^ 32

/-- A number's low 32 bits read as two's complement, as a 64-bit value: `sext_32`. -/
def sextOfNat32 (n : Nat) : Word := wordOfInt (BitVec.ofNat 32 n).toInt

/-- `lsl_W` on the number `v`. -/
def natLsl (W v s : Nat) : Nat := (v * 2 ^ s) % 2 ^ W

/-- `lsr_W` on the number `v`. -/
def natLsr (v s : Nat) : Nat := v / 2 ^ s

/-- `asr_W` on the number `v`: floor(signed(v) / 2^s) modulo 2^W. -/
def natAsr (W v s : Nat) : Nat := (((BitVec.ofNat W v).toInt / (2 : Int) ^ s) % (2 : Int) ^ W).toNat

/-- `rotl_W` on the number `v`. -/
def natRotl (W v s : Nat) : Nat := natLsl W v s ||| natLsr v (W - s)

/-- `rotr_W` on the number `v`. -/
def natRotr (W v s : Nat) : Nat := natLsr v s ||| natLsl W v (W - s)

/-- `qsll64` and `qsll32` (41_alu_immediate.md R93, R94). -/
def specSll (mode : ShiftMode) (W v s : Nat) : Nat := if mode = .quirk then natRotl W v s else natLsl W v s

/-- `qsrl64` and `qsrl32`. -/
def specSrl (mode : ShiftMode) (W v s : Nat) : Nat := if mode = .quirk then natRotr W v s else natLsr v s

/-- `qsra64` and `qsra32`. -/
def specSra (mode : ShiftMode) (W v s : Nat) : Nat :=
  if mode = .quirk then natAsr W v s ||| natLsl W v (W - s) else natAsr W v s

/-! ### What the instructions name -/

/-- The register an instruction writes, if it writes one: every instruction but the stores, the branches, `sret`,
`mret` and `sfence.vma` (10_state.md R25). -/
def destOf : Instr → Option RegIx
  | .lb rd _ _ => some rd
  | .lh rd _ _ => some rd
  | .lw rd _ _ => some rd
  | .ld rd _ _ => some rd
  | .lbu rd _ _ => some rd
  | .lhu rd _ _ => some rd
  | .lwu rd _ _ => some rd
  | .addi rd _ _ => some rd
  | .slti rd _ _ => some rd
  | .sltiu rd _ _ => some rd
  | .xori rd _ _ => some rd
  | .ori rd _ _ => some rd
  | .andi rd _ _ => some rd
  | .slli rd _ _ => some rd
  | .srli rd _ _ => some rd
  | .srai rd _ _ => some rd
  | .addiw rd _ _ => some rd
  | .slliw rd _ _ => some rd
  | .srliw rd _ _ => some rd
  | .sraiw rd _ _ => some rd
  | .auipc rd _ => some rd
  | .lui rd _ => some rd
  | .sb _ _ _ => none
  | .sh _ _ _ => none
  | .sw _ _ _ => none
  | .sd _ _ _ => none
  | .amoaddW rd _ _ _ _ => some rd
  | .amoswapW rd _ _ _ _ => some rd
  | .amoaddD rd _ _ _ _ => some rd
  | .amoswapD rd _ _ _ _ => some rd
  | .add rd _ _ => some rd
  | .sub rd _ _ => some rd
  | .mul rd _ _ => some rd
  | .sll rd _ _ => some rd
  | .slt rd _ _ => some rd
  | .sltu rd _ _ => some rd
  | .xor rd _ _ => some rd
  | .srl rd _ _ => some rd
  | .sra rd _ _ => some rd
  | .or rd _ _ => some rd
  | .and rd _ _ => some rd
  | .addw rd _ _ => some rd
  | .subw rd _ _ => some rd
  | .mulw rd _ _ => some rd
  | .sllw rd _ _ => some rd
  | .srlw rd _ _ => some rd
  | .sraw rd _ _ => some rd
  | .beq _ _ _ => none
  | .bne _ _ _ => none
  | .blt _ _ _ => none
  | .bge _ _ _ => none
  | .bltu _ _ _ => none
  | .bgeu _ _ _ => none
  | .jalr rd _ _ => some rd
  | .jal rd _ => some rd
  | .csrrw rd _ _ => some rd
  | .csrrs rd _ _ => some rd
  | .csrrc rd _ _ => some rd
  | .csrrwi rd _ _ => some rd
  | .csrrsi rd _ _ => some rd
  | .csrrci rd _ _ => some rd
  | .sret => none
  | .mret => none
  | .sfenceVma _ _ => none

/-- The address and width in bytes of an instruction's memory access, if it makes one (20_memory.md R55). -/
def accessOf (s : State) : Instr → Option (Word × Nat)
  | .lb _ rs1 imm => some (s.loadAddr rs1 imm, 1)
  | .lh _ rs1 imm => some (s.loadAddr rs1 imm, 2)
  | .lw _ rs1 imm => some (s.loadAddr rs1 imm, 4)
  | .ld _ rs1 imm => some (s.loadAddr rs1 imm, 8)
  | .lbu _ rs1 imm => some (s.loadAddr rs1 imm, 1)
  | .lhu _ rs1 imm => some (s.loadAddr rs1 imm, 2)
  | .lwu _ rs1 imm => some (s.loadAddr rs1 imm, 4)
  | .sb _ rs1 imm => some (s.storeAddr rs1 imm, 1)
  | .sh _ rs1 imm => some (s.storeAddr rs1 imm, 2)
  | .sw _ rs1 imm => some (s.storeAddr rs1 imm, 4)
  | .sd _ rs1 imm => some (s.storeAddr rs1 imm, 8)
  | .amoaddW _ _ rs1 _ _ => some (s.amoAddr rs1, 4)
  | .amoswapW _ _ rs1 _ _ => some (s.amoAddr rs1, 4)
  | .amoaddD _ _ rs1 _ _ => some (s.amoAddr rs1, 8)
  | .amoswapD _ _ rs1 _ _ => some (s.amoAddr rs1, 8)
  | _ => none

/-- The instruction writes RAM: the stores and the AMOs (20_memory.md R55). -/
def writesRam : Instr → Bool
  | .sb _ _ _ | .sh _ _ _ | .sw _ _ _ | .sd _ _ _ => true
  | .amoaddW _ _ _ _ _ | .amoswapW _ _ _ _ _ | .amoaddD _ _ _ _ _ | .amoswapD _ _ _ _ _ => true
  | _ => false

/-- The instruction is one of the six CSR instructions, `sret` or `mret`: the only ones that write a CSR
(10_state.md R40, R41). -/
def writesCsr : Instr → Bool
  | .csrrw _ _ _ | .csrrs _ _ _ | .csrrc _ _ _ | .csrrwi _ _ _ | .csrrsi _ _ _ | .csrrci _ _ _ => true
  | .sret | .mret => true
  | _ => false

/-- pc after the instruction at `s.pc` has executed normally (10_state.md R28), where `s` is the state before the step.
`jalr` reads x[rs1] after the link only where SEQUENTIAL_LINK is true (46_control_transfer.md R144). -/
def nextPc (s : State) : Instr → Word
  | .beq a b imm => if s.readX a = s.readX b then s.pc + wordOfInt imm.toInt else s.pc + 4#64
  | .bne a b imm => if s.readX a ≠ s.readX b then s.pc + wordOfInt imm.toInt else s.pc + 4#64
  | .blt a b imm => if (s.readX a).toInt < (s.readX b).toInt then s.pc + wordOfInt imm.toInt else s.pc + 4#64
  | .bge a b imm => if (s.readX b).toInt ≤ (s.readX a).toInt then s.pc + wordOfInt imm.toInt else s.pc + 4#64
  | .bltu a b imm => if (s.readX a).toNat < (s.readX b).toNat then s.pc + wordOfInt imm.toInt else s.pc + 4#64
  | .bgeu a b imm => if (s.readX b).toNat ≤ (s.readX a).toNat then s.pc + wordOfInt imm.toInt else s.pc + 4#64
  | .jal _ imm => s.pc + wordOfInt imm.toInt
  | .jalr rd rs1 imm =>
    let base := if s.cfg.sequentialLink ∧ rd = rs1 ∧ rd ≠ 0#5 then s.pc + 4#64 else s.readX rs1
    (base + wordOfInt imm.toInt) &&& ~~~1#64
  | .sret => s.csrRead 0x141#12
  | .mret => s.csrRead 0x341#12
  | _ => s.pc + 4#64

/-- The mode after the instruction has executed normally: `sret` and `mret` set it from the status register's
previous-privilege field, every other instruction leaves it (60_exceptions.md R175). -/
def nextMode (s : State) : Instr → Mode
  | .sret => if (s.csrRead 0x100#12).getLsbD 8 then .supervisor else .user
  | .mret =>
    if (s.csrRead 0x300#12).extractLsb' 11 2 = 0#2 then .user
    else if (s.csrRead 0x300#12).extractLsb' 11 2 = 1#2 then .supervisor
    else if (s.csrRead 0x300#12).extractLsb' 11 2 = 3#2 then .machine
    else match s.cfg.mpp2Behaviour with
      | .user => .user
      | .supervisor => .supervisor
      | _ => .machine
  | _ => s.mode

/-- An outcome with its state, if it holds one, changed by `g`. -/
def mapOutcome (g : State → State) : Host.Outcome State Fault Refusal → Host.Outcome State Fault Refusal
  | .next t => .next (g t)
  | .fault (.raised r left) => .fault (.raised r (g left))
  | .fault (.notRunning left) => .fault (.notRunning (g left))
  | .refused r => .refused r

/-! ### Encodings: which words decode to which instruction (30_encoding.md R77) -/

/-- Every word with this opcode and funct3 decodes to `mk` of its I-format operands. -/
def DecodesI (opcode : BitVec 7) (funct3 : BitVec 3) (mk : RegIx → RegIx → BitVec 12 → Instr) : Prop :=
  ∀ hasMulw w, opcodeOf w = opcode → funct3Of w = funct3 →
    decodeWord hasMulw w = .ok (mk (rdOf w) (rs1Of w) (immIOf w))

/-- Every word with opcode 0x13 and this funct3 and funct6 decodes to `mk` of rd, rs1 and the 6-bit shift amount. -/
def DecodesShift64 (funct3 : BitVec 3) (funct6 : BitVec 6) (mk : RegIx → RegIx → BitVec 6 → Instr) : Prop :=
  ∀ hasMulw w, opcodeOf w = 0x13#7 → funct3Of w = funct3 → funct6Of w = funct6 →
    decodeWord hasMulw w = .ok (mk (rdOf w) (rs1Of w) (shamt6Of w))

/-- Every word with opcode 0x1b and this funct3 and funct7 decodes to `mk` of rd, rs1 and the 5-bit shift amount. -/
def DecodesShift32 (funct3 : BitVec 3) (funct7 : BitVec 7) (mk : RegIx → RegIx → BitVec 5 → Instr) : Prop :=
  ∀ hasMulw w, opcodeOf w = 0x1b#7 → funct3Of w = funct3 → funct7Of w = funct7 →
    decodeWord hasMulw w = .ok (mk (rdOf w) (rs1Of w) (shamt5Of w))

/-- Every word with this opcode decodes to `mk` of rd and the upper 20 bits. -/
def DecodesU (opcode : BitVec 7) (mk : RegIx → BitVec 20 → Instr) : Prop :=
  ∀ hasMulw w, opcodeOf w = opcode → decodeWord hasMulw w = .ok (mk (rdOf w) (imm20Of w))

/-- Every word with opcode 0x23 and this funct3 decodes to `mk` of rs2, rs1 and imm_S. -/
def DecodesS (funct3 : BitVec 3) (mk : RegIx → RegIx → BitVec 12 → Instr) : Prop :=
  ∀ hasMulw w, opcodeOf w = 0x23#7 → funct3Of w = funct3 →
    decodeWord hasMulw w = .ok (mk (rs2Of w) (rs1Of w) (immSOf w))

/-- Every word with opcode 0x2f and this funct3 and funct5, whatever its aq and rl, decodes to `mk`. -/
def DecodesAmo (funct3 : BitVec 3) (funct5 : BitVec 5) (mk : RegIx → RegIx → RegIx → Bool → Bool → Instr) : Prop :=
  ∀ hasMulw w, opcodeOf w = 0x2f#7 → funct3Of w = funct3 → funct5Of w = funct5 →
    decodeWord hasMulw w = .ok (mk (rdOf w) (rs2Of w) (rs1Of w) (aqOf w) (rlOf w))

/-- Every word with this opcode, funct3 and funct7 decodes to `mk` of rd, rs1 and rs2. -/
def DecodesR (opcode : BitVec 7) (funct3 : BitVec 3) (funct7 : BitVec 7) (mk : RegIx → RegIx → RegIx → Instr) : Prop :=
  ∀ hasMulw w, opcodeOf w = opcode → funct3Of w = funct3 → funct7Of w = funct7 →
    decodeWord hasMulw w = .ok (mk (rdOf w) (rs1Of w) (rs2Of w))

/-- Every word with opcode 0x63 and this funct3 decodes to `mk` of rs1, rs2 and imm_B. -/
def DecodesB (funct3 : BitVec 3) (mk : RegIx → RegIx → BitVec 13 → Instr) : Prop :=
  ∀ hasMulw w, opcodeOf w = 0x63#7 → funct3Of w = funct3 →
    decodeWord hasMulw w = .ok (mk (rs1Of w) (rs2Of w) (immBOf w))

/-- Every word with opcode 0x73 and this funct3 decodes to `mk` of rd, the CSR address and inst[19:15]. -/
def DecodesCsr (funct3 : BitVec 3) (mk : RegIx → CsrAddr → BitVec 5 → Instr) : Prop :=
  ∀ hasMulw w, opcodeOf w = 0x73#7 → funct3Of w = funct3 →
    decodeWord hasMulw w = .ok (mk (rdOf w) (csrOf w) (w.extractLsb' 15 5))

/-- The word four bytes of RAM hold at pc, lowest address least significant (20_memory.md R54; 30_encoding.md R67). -/
def wordAtPc (s : State) : InstWord := BitVec.ofNat 32 (ramNat s (offsetOf s s.pc) 4)

/-- Words of 95_test_vectors.md (V26, V54, V55, V69, V78, V79, V114 to V117, V139, V149, V166, V180 to V190) that the
spec reads as decode faults: FENCE, FENCE.I, ECALL, EBREAK, WFI, MULH, DIV, LR.W and others (30_encoding.md R79). -/
def unlistedWords : List InstWord :=
  [0x0000000F#32, 0x0000100F#32, 0x00000073#32, 0x00100073#32, 0x10500073#32, 0x340342F3#32,
   0x027312B3#32, 0x027342B3#32, 0x100322AF#32, 0x407322AF#32, 0x00037283#32, 0x00734423#32,
   0x00732463#32, 0x000310E7#32, 0x40431293#32, 0x0203129B#32, 0x047302B3#32, 0x007342BB#32,
   0x127300F3#32, 0x00004501#32, 0x00000000#32, 0xFFFFFFFF#32, 0x0000007F#32, 0x000000FF#32]

/-! ### The opcode table -/

/-- A row of spec/opcode_table.json: a word is the row's instruction where its bits under `mask` are `bits`. -/
structure OpcodeRow where
  mnemonic : String
  bits : InstWord
  mask : InstWord
  deriving DecidableEq, Repr

/-- Rows 1 to 16, in the table's order. -/
def opcodeRowsPartA : List OpcodeRow :=
  [⟨"lb", 0x00000003#32, 0x0000707F#32⟩,
   ⟨"lh", 0x00001003#32, 0x0000707F#32⟩,
   ⟨"lw", 0x00002003#32, 0x0000707F#32⟩,
   ⟨"ld", 0x00003003#32, 0x0000707F#32⟩,
   ⟨"lbu", 0x00004003#32, 0x0000707F#32⟩,
   ⟨"lhu", 0x00005003#32, 0x0000707F#32⟩,
   ⟨"lwu", 0x00006003#32, 0x0000707F#32⟩,
   ⟨"addi", 0x00000013#32, 0x0000707F#32⟩,
   ⟨"slti", 0x00002013#32, 0x0000707F#32⟩,
   ⟨"sltiu", 0x00003013#32, 0x0000707F#32⟩,
   ⟨"xori", 0x00004013#32, 0x0000707F#32⟩,
   ⟨"ori", 0x00006013#32, 0x0000707F#32⟩,
   ⟨"andi", 0x00007013#32, 0x0000707F#32⟩,
   ⟨"slli", 0x00001013#32, 0xFC00707F#32⟩,
   ⟨"srli", 0x00005013#32, 0xFC00707F#32⟩,
   ⟨"srai", 0x40005013#32, 0xFC00707F#32⟩]

/-- Rows 17 to 32, in the table's order. -/
def opcodeRowsPartB : List OpcodeRow :=
  [⟨"addiw", 0x0000001B#32, 0x0000707F#32⟩,
   ⟨"slliw", 0x0000101B#32, 0xFE00707F#32⟩,
   ⟨"srliw", 0x0000501B#32, 0xFE00707F#32⟩,
   ⟨"sraiw", 0x4000501B#32, 0xFE00707F#32⟩,
   ⟨"auipc", 0x00000017#32, 0x0000007F#32⟩,
   ⟨"lui", 0x00000037#32, 0x0000007F#32⟩,
   ⟨"sb", 0x00000023#32, 0x0000707F#32⟩,
   ⟨"sh", 0x00001023#32, 0x0000707F#32⟩,
   ⟨"sw", 0x00002023#32, 0x0000707F#32⟩,
   ⟨"sd", 0x00003023#32, 0x0000707F#32⟩,
   ⟨"amoadd.w", 0x0000202F#32, 0xF800707F#32⟩,
   ⟨"amoswap.w", 0x0800202F#32, 0xF800707F#32⟩,
   ⟨"amoadd.d", 0x0000302F#32, 0xF800707F#32⟩,
   ⟨"amoswap.d", 0x0800302F#32, 0xF800707F#32⟩,
   ⟨"add", 0x00000033#32, 0xFE00707F#32⟩,
   ⟨"sub", 0x40000033#32, 0xFE00707F#32⟩]

/-- Rows 33 to 48, in the table's order. -/
def opcodeRowsPartC : List OpcodeRow :=
  [⟨"mul", 0x02000033#32, 0xFE00707F#32⟩,
   ⟨"sll", 0x00001033#32, 0xFE00707F#32⟩,
   ⟨"slt", 0x00002033#32, 0xFE00707F#32⟩,
   ⟨"sltu", 0x00003033#32, 0xFE00707F#32⟩,
   ⟨"xor", 0x00004033#32, 0xFE00707F#32⟩,
   ⟨"srl", 0x00005033#32, 0xFE00707F#32⟩,
   ⟨"sra", 0x40005033#32, 0xFE00707F#32⟩,
   ⟨"or", 0x00006033#32, 0xFE00707F#32⟩,
   ⟨"and", 0x00007033#32, 0xFE00707F#32⟩,
   ⟨"addw", 0x0000003B#32, 0xFE00707F#32⟩,
   ⟨"subw", 0x4000003B#32, 0xFE00707F#32⟩,
   ⟨"mulw", 0x0200003B#32, 0xFE00707F#32⟩,
   ⟨"sllw", 0x0000103B#32, 0xFE00707F#32⟩,
   ⟨"srlw", 0x0000503B#32, 0xFE00707F#32⟩,
   ⟨"sraw", 0x4000503B#32, 0xFE00707F#32⟩,
   ⟨"beq", 0x00000063#32, 0x0000707F#32⟩]

/-- Rows 49 to 64, in the table's order. -/
def opcodeRowsPartD : List OpcodeRow :=
  [⟨"bne", 0x00001063#32, 0x0000707F#32⟩,
   ⟨"blt", 0x00004063#32, 0x0000707F#32⟩,
   ⟨"bge", 0x00005063#32, 0x0000707F#32⟩,
   ⟨"bltu", 0x00006063#32, 0x0000707F#32⟩,
   ⟨"bgeu", 0x00007063#32, 0x0000707F#32⟩,
   ⟨"jalr", 0x00000067#32, 0x0000707F#32⟩,
   ⟨"jal", 0x0000006F#32, 0x0000007F#32⟩,
   ⟨"csrrw", 0x00001073#32, 0x0000707F#32⟩,
   ⟨"csrrs", 0x00002073#32, 0x0000707F#32⟩,
   ⟨"csrrc", 0x00003073#32, 0x0000707F#32⟩,
   ⟨"csrrwi", 0x00005073#32, 0x0000707F#32⟩,
   ⟨"csrrsi", 0x00006073#32, 0x0000707F#32⟩,
   ⟨"csrrci", 0x00007073#32, 0x0000707F#32⟩,
   ⟨"sret", 0x10200073#32, 0xFFFFFFFF#32⟩,
   ⟨"mret", 0x30200073#32, 0xFFFFFFFF#32⟩,
   ⟨"sfence.vma", 0x12000073#32, 0xFE007FFF#32⟩]

/-- The 64 rows of spec/opcode_table.json, match and mask as the table gives them (30_encoding.md R77). -/
def opcodeRows : List OpcodeRow := opcodeRowsPartA ++ opcodeRowsPartB ++ opcodeRowsPartC ++ opcodeRowsPartD

end Sys2Proof.Machine
end

