-- ==== Sys2Proof/Certificates/Slice0/Obligations.lean ====
section
/-! DEFINITION. The statements for the provers, from the numbered rules of spec/. `s` in a statement about `exec` is
the state after the pre-advance of pc, so pc_inst is s.pc - 4 there; `s` in a statement about `step` is the state
before it. What is unchanged is said by SameRegs, SameCsrs, SameRam and SameHidden (Safety.lean). -/

open Sys2Proof Sys2Proof.Machine

/-- Decode and encode agree: no operand bit of any of the 64 instructions is dropped (30_encoding.md R66 to R77). -/
def Obligations.DecodeOfEncodeIsIdentity : Prop :=
  ∀ (hasMulw : Bool) (i : Instr), i.wellFormed hasMulw = true → decodeWord hasMulw (encode i) = .ok i

/-- The other direction: each decodable word has one meaning and every bit of it is fixed or in an operand (30_encoding.md R66). -/
def Obligations.EncodeOfDecodeIsIdentity : Prop :=
  ∀ (hasMulw : Bool) (w : InstWord) (i : Instr), decodeWord hasMulw w = .ok i →
    i.wellFormed hasMulw = true ∧ encode i = w

/-- The decoder and spec/opcode_table.json describe the same set of words (30_encoding.md R76 to R78, R81). -/
def Obligations.DecodeAcceptsExactlyTheTableRows : Prop :=
  ∀ (hasMulw : Bool) (w : InstWord) (m : String),
    (∃ i, decodeWord hasMulw w = .ok i ∧ mnemonicOf i = m) ↔
      ∃ row ∈ opcodeRows, row.mnemonic = m ∧ w &&& row.mask = row.bits ∧ (m = "mulw" → hasMulw = true)

/-- A sanity statement: words of 40_loads.md to 47_system.md and 95_test_vectors.md, read by the decoder. -/
def Obligations.WrittenOutWordsDecode : Prop :=
  decodeWord true 0x00130283#32 = .ok (.lb 5 6 1) ∧
    decodeWord true 0xFF833283#32 = .ok (.ld 5 6 (-8)) ∧
    decodeWord true 0xFFF30293#32 = .ok (.addi 5 6 (-1)) ∧
    decodeWord true 0x03F31293#32 = .ok (.slli 5 6 63) ∧
    decodeWord true 0x40435293#32 = .ok (.srai 5 6 4) ∧
    decodeWord true 0x4043529B#32 = .ok (.sraiw 5 6 4) ∧
    decodeWord true 0x00001297#32 = .ok (.auipc 5 1) ∧
    decodeWord true 0x800002B7#32 = .ok (.lui 5 0x80000) ∧
    decodeWord true 0x00730423#32 = .ok (.sb 7 6 8) ∧
    decodeWord true 0xFE702E23#32 = .ok (.sw 7 0 (-4)) ∧
    decodeWord true 0x067322AF#32 = .ok (.amoaddW 5 7 6 true true) ∧
    decodeWord true 0x087332AF#32 = .ok (.amoswapD 5 7 6 false false) ∧
    decodeWord true 0x407302B3#32 = .ok (.sub 5 6 7) ∧
    decodeWord true 0x027302BB#32 = .ok (.mulw 5 6 7) ∧
    decodeWord true 0xFE730EE3#32 = .ok (.beq 6 7 (-4)) ∧
    decodeWord true 0x7E000FE3#32 = .ok (.beq 0 0 4094) ∧
    decodeWord true 0x005300E7#32 = .ok (.jalr 1 6 5) ∧
    decodeWord true 0xFFDFF06F#32 = .ok (.jal 0 (-4)) ∧
    decodeWord true 0x340312F3#32 = .ok (.csrrw 5 0x340 6) ∧
    decodeWord true 0x340FD2F3#32 = .ok (.csrrwi 5 0x340 31) ∧
    decodeWord true 0x10200073#32 = .ok (.sret) ∧
    decodeWord true 0x30200073#32 = .ok (.mret) ∧
    decodeWord true 0x12730073#32 = .ok (.sfenceVma 6 7)

/-- Words of 95_test_vectors.md V26, V54, V55, V69, V78, V79, V114 to V117, V139, V149, V166 and V180 to V190 (30_encoding.md R79, the spec's own reading, decision D37). -/
def Obligations.StandardWordsOutsideTheSetAreRejected : Prop :=
  ∀ (hasMulw : Bool) (w : InstWord), w ∈ unlistedWords → ∃ e, decodeWord hasMulw w = .error e

/-- No 16-bit or other short encoding exists (30_encoding.md R82, which the spec derives). -/
def Obligations.CompressedEncodingsAreRejected : Prop :=
  ∀ (hasMulw : Bool) (w : InstWord), w.extractLsb' 0 2 ≠ 3#2 → ∃ e, decodeWord hasMulw w = .error e

/-- Fetch, advance pc by 4, execute, halt check (60_exceptions.md R159, R161). The per-instruction statements reach a run through this one. -/
def Obligations.StepRunsDecodedInstruction : Prop :=
  ∀ (s : State) (i : Instr), s.status = .running → InRam s s.pc 4 →
    decodeWord s.cfg.hasMulw (wordAtPc s) = .ok i →
    step s = match exec i { s with pc := s.pc + 4#64 } with
      | .next t => .next (if t.pc = 0#64 then { t with status := .halted } else t)
      | .fault f => .fault f
      | .refused r => .refused r

/-- Encode, store little-endian, fetch, decode and execute compose (20_memory.md R51, R54; 30_encoding.md R67; 60_exceptions.md R159). -/
def Obligations.StepRunsThePlacedInstruction : Prop :=
  ∀ (s : State) (i : Instr), s.wf = true → s.status = .running → InRam s s.pc 4 →
    i.wellFormed s.cfg.hasMulw = true →
    step (s.withFetchWord 32 (encode i).toNat) =
      haltCheck (exec i (s.withFetchWord 32 (encode i).toNat).preAdvance)

/-- A fetch fault (20_memory.md R54; 60_exceptions.md R164, spec decision D22). -/
def Obligations.FetchFaultLeavesEverything : Prop :=
  ∀ s : State, s.status = .running → ¬ InRam s s.pc 4 → FaultsFrom (step s) s (accessFault s s.pc 4)

/-- Decode faults (30_encoding.md R78), the table standing for rules R76 and R77. -/
def Obligations.UnlistedWordIsADecodeFault : Prop :=
  ∀ s : State, s.status = .running → InRam s s.pc 4 →
    (∀ row ∈ opcodeRows, wordAtPc s &&& row.mask = row.bits → row.mnemonic = "mulw" ∧ s.cfg.hasMulw = false) →
    FaultsFrom (step s) { s with pc := s.pc + 4#64 } (.decodeFault (wordAtPc s) ((wordAtPc s).extractLsb' 0 7)) ∧
    ∀ fuel, s.run (fuel + 1) = .faulted (.decodeFault (wordAtPc s) ((wordAtPc s).extractLsb' 0 7))
      { s with pc := s.pc + 4#64,
               status := .faulted (.decodeFault (wordAtPc s) ((wordAtPc s).extractLsb' 0 7)) }

/-- The halt convention (60_exceptions.md R161). -/
def Obligations.HaltExactlyAtPcZero : Prop :=
  ∀ s : State, s.status = .running →
    (∀ t, step s = .next t →
      (t.status = .halted ↔ t.pc = 0#64) ∧
      ∃ i u, InRam s s.pc 4 ∧ decodeWord s.cfg.hasMulw (wordAtPc s) = .ok i ∧
        exec i { s with pc := s.pc + 4#64 } = .next u ∧
        t = (if u.pc = 0#64 then { u with status := .halted } else u)) ∧
    ∀ r left, step s = .fault (.raised r left) → left.status ≠ .halted

/-- A step is never taken from a terminal state (60_exceptions.md R163, spec decision D29; log entry 9). -/
def Obligations.NoStepFromATerminalState : Prop :=
  ∀ s : State, s.status ≠ .running → step s = .fault (.notRunning s)

/-- What a fault leaves (60_exceptions.md R164, spec decision D22). -/
def Obligations.FaultsLeaveOnlyThePcAdvance : Prop :=
  ∀ (s : State) (r : FaultReason) (left : State), step s = .fault (.raised r left) →
    s.status = .running ∧
    ((¬ InRam s s.pc 4 ∧ left = { s with status := .faulted r }) ∨
      (InRam s s.pc 4 ∧ left = { s with pc := s.pc + 4#64, status := .faulted r }))

/-- The faults of 60_exceptions.md R165 to R169 and their causes; that no step breaks a contract is the spec's inference in R168. -/
def Obligations.StepFaultsAreTheNamedOnes : Prop :=
  ∀ s : State, (∀ why, step s ≠ .refused why) ∧
    ∀ r left, step s = .fault (.raised r left) →
      ((∃ e, decodeWord s.cfg.hasMulw (wordAtPc s) = .error e) ∧
        r = .decodeFault (wordAtPc s) ((wordAtPc s).extractLsb' 0 7)) ∨
      (∃ (a : Word) (n : Nat),
        ((a = s.pc ∧ n = 4) ∨
          ∃ i, decodeWord s.cfg.hasMulw (wordAtPc s) = .ok i ∧ accessOf s i = some (a, n)) ∧
        ¬ InRam s a n ∧ r = accessFault s a n) ∨
      (decodeWord s.cfg.hasMulw (wordAtPc s) = .ok .mret ∧ s.cfg.mpp2Behaviour = .fault ∧
        (s.csrRead 0x300#12).extractLsb' 11 2 = 2#2 ∧ r = .reservedMPP (s.csrRead 0x300#12))

/-- The register file (10_state.md R22, R23). -/
def Obligations.RegisterFileReadsBack : Prop :=
  ∀ (s : State) (v : Word), s.readX 0#5 = 0#64 ∧ s.writeX 0#5 v = s ∧
    (∀ q : RegIx, q ≠ 0#5 → s.readX q = s.x[q.toNat]'q.isLt) ∧
    ∀ r q : RegIx, (s.writeX r v).readX q =
      if q = 0#5 then 0#64 else if q = r then v else s.readX q

/-- Plain storage of every CSR but the alias (10_state.md R36). -/
def Obligations.CsrReadsBack : Prop :=
  ∀ s : State, s.wf = true → ∀ (a : CsrAddr) (v : Word), a ≠ 0x104#12 →
    (s.csrWrite a v).csrRead a = v ∧
    (∀ b, b ≠ a → b ≠ 0x104#12 → (s.csrWrite a v).csrRead b = s.csrRead b) ∧
    s.csrWrite a v = { s with csr := (s.csrWrite a v).csr }

/-- The alias SIE (10_state.md R33, R34). -/
def Obligations.SieIsAnAliasOfMie : Prop :=
  ∀ s : State, s.wf = true →
    s.csrRead 0x104#12 = s.csrSlot 0x304#12 &&& s.csrSlot 0x303#12 ∧
    (∀ a, a ≠ 0x104#12 → s.csrRead a = s.csrSlot a) ∧
    (∀ a v, CsrBecomes s (s.csrWrite a v) a v) ∧
    ∀ v, (s.csrWrite 0x104#12 v).csrRead 0x104#12 = v &&& s.csrSlot 0x303#12

/-- The Bus (20_memory.md R48 to R50, R53; spec decision D4; that no access size of an instruction is refused is the spec's inference). The last clause holds at every address, also below RAM_BASE: that the size is checked before the address is the model's choice, DESIGN CHOICE of log entry 15, and the form of its report that of log entry 19. -/
def Obligations.BusTranslatesOrFaults : Prop :=
  ∀ (s : State) (a : Word) (v : Word),
    (∀ n, (n = 1 ∨ n = 2 ∨ n = 4 ∨ n = 8) →
      (¬ InRam s a n → s.memRead a n = .error (accessFault s a n) ∧ s.memWrite a n v = .error (accessFault s a n)) ∧
      (InRam s a n → (∃ u, s.memRead a n = .ok u) ∧ ∃ t, s.memWrite a n v = .ok t)) ∧
    ∀ size, size ≠ 8 → size ≠ 16 → size ≠ 32 → size ≠ 64 →
      s.busLoad a size = .error (.contractViolation (.accessSize size)) ∧
      s.busStore a size v = .error (.contractViolation (.accessSize size))

/-- Little-endian reads (20_memory.md R51). -/
def Obligations.MemReadIsLittleEndian : Prop :=
  ∀ (s : State) (a : Word) (n : Nat), (n = 1 ∨ n = 2 ∨ n = 4 ∨ n = 8) → InRam s a n →
    ∃ v, s.memRead a n = .ok v ∧ v.toNat = ramNat s (offsetOf s a) n ∧ v.toNat < 256 ^ n

/-- Writes (20_memory.md R52). -/
def Obligations.MemWriteSetsExactlyItsBytes : Prop :=
  ∀ (s : State) (a : Word) (n : Nat) (v : Word), s.wf = true → (n = 1 ∨ n = 2 ∨ n = 4 ∨ n = 8) → InRam s a n →
    ∃ t, s.memWrite a n v = .ok t ∧ RamBecomes s t (offsetOf s a) n v ∧ t = { s with mem := t.mem }

/-- The store and load round trip, and narrower reads (20_memory.md R51, R57; R57 is the spec's inference). -/
def Obligations.StoredBytesReadBack : Prop :=
  ∀ (s : State) (a : Word) (n : Nat) (v : Word), s.wf = true → (n = 1 ∨ n = 2 ∨ n = 4 ∨ n = 8) → InRam s a n →
    ∃ t, s.memWrite a n v = .ok t ∧
      t.memRead a n = .ok (BitVec.ofNat 64 (v.toNat % 2 ^ (8 * n))) ∧
      (∀ k, k < n → t.memRead (a + BitVec.ofNat 64 k) 1 = .ok ((v.extractLsb' (8 * k) 8).setWidth 64)) ∧
      (n = 8 → t.memRead a 4 = .ok (BitVec.ofNat 64 (v.toNat % 2 ^ 32)))

/-- The base case of StepKeepsTheInvariant; it rests on the values log entries 1 to 6 choose. -/
def Obligations.ResetMeetsTheInvariant : Prop :=
  State.reset.wf = true ∧ State.reset.status = .running

/-- The invariant holds of every construction, not only of State.reset (70_reset_and_hazards.md R182). -/
def Obligations.ConstructionMeetsTheInvariant : Prop :=
  ∀ (cfg : Config) (d : Draws) (image : List Byte) (t : State), cfg.wf = true → d.wf cfg.ramSize = true →
    State.construct cfg d image = .ok t → t.wf = true ∧ t.status = .running

/-- An inductive invariant of the whole machine. -/
def Obligations.StepKeepsTheInvariant : Prop :=
  ∀ s : State, s.wf = true →
    (∀ t, step s = .next t → t.wf = true) ∧ ∀ r left, step s = .fault (.raised r left) → left.wf = true

/-- The floating-point registers are never written by execution (10_state.md R30), and the parameters are fixed (log entries 1 and 2). -/
def Obligations.StepKeepsParametersAndFpRegisters : Prop :=
  ∀ s t : State, step s = .next t → t.f = s.f ∧ t.cfg = s.cfg

/-- The privilege-mode state machine (60_exceptions.md R175), and under MPP2_BEHAVIOUR user, supervisor or machine the mode of mret with MPP = 2, which R175 does not give (47_system.md R156, spec decision D18; log entry 2). -/
def Obligations.ModeFollowsOnlyTrapReturns : Prop :=
  (∀ cfg d image t, State.construct cfg d image = .ok t → t.mode = .machine) ∧
    (∀ (i : Instr) (s t : State), exec i s = .next t → t.mode = nextMode s i) ∧
    ∀ s : State, s.cfg.mpp2Behaviour = .fault → (s.csrRead 0x300#12).extractLsb' 11 2 = 2#2 →
      FaultsFrom (exec .mret s) s (.reservedMPP (s.csrRead 0x300#12))

/-- The privilege mode gates nothing (60_exceptions.md R176; 47_system.md R158; spec decisions D19 and D20). -/
def Obligations.ModeGatesNothing : Prop :=
  ∀ (s : State) (m : Mode),
    mapOutcome (fun t => t.setMode .user) (step (s.setMode m)) = mapOutcome (fun t => t.setMode .user) (step s)

/-- The floating-point registers are not observable (10_state.md R30). -/
def Obligations.FpRegistersAreNeverRead : Prop :=
  ∀ (s : State) (g : Vector Word 32),
    step { s with f := g } = mapOutcome (fun t => { t with f := g }) (step s)

/-- The frame of the whole instruction set (10_state.md R25, R40, R41, R43, R44; 20_memory.md R55). -/
def Obligations.EveryInstructionKeepsItsFrame : Prop :=
  ∀ (i : Instr) (s t : State), exec i s = .next t →
    (∀ r, destOf i ≠ some r → t.readX r = s.readX r) ∧
    (writesCsr i = false → SameCsrs s t) ∧
    (writesRam i = false → SameRam s t) ∧
    (∀ a n, accessOf s i = some (a, n) → ∀ p, (p < offsetOf s a ∨ offsetOf s a + n ≤ p) → t.ramByte p = s.ramByte p) ∧
    SameHidden s t

/-- The next pc (10_state.md R28, the spec's inference), which also says that the compensation by 4 is right. -/
def Obligations.PcAfterNormalExecution : Prop :=
  ∀ (s t : State) (i : Instr), s.status = .running → InRam s s.pc 4 →
    decodeWord s.cfg.hasMulw (wordAtPc s) = .ok i → step s = .next t → t.pc = nextPc s i

/-- The 32-bit mask of store addresses (43_stores.md R110): the address an access starts at, not every byte it reaches, stays below 2^32. That the last n - 1 bytes of a store may lie at 2^32 or above is log entry 16, DEDUCED, against the consequence R110 draws. -/
def Obligations.StoreAddressesStayBelow4GiB : Prop :=
  ∀ (s t : State) (rs2 rs1 : RegIx) (imm : BitVec 12),
    (s.storeAddr rs1 imm).toNat < 2 ^ 32 ∧
    (exec (.sb rs2 rs1 imm) s = .next t → ∀ p, 2 ^ 32 ≤ s.cfg.ramBase.toNat + p → t.ramByte p = s.ramByte p) ∧
    (exec (.sh rs2 rs1 imm) s = .next t → ∀ p, 2 ^ 32 + 1 ≤ s.cfg.ramBase.toNat + p → t.ramByte p = s.ramByte p) ∧
    (exec (.sw rs2 rs1 imm) s = .next t → ∀ p, 2 ^ 32 + 3 ≤ s.cfg.ramBase.toNat + p → t.ramByte p = s.ramByte p) ∧
    (exec (.sd rs2 rs1 imm) s = .next t → ∀ p, 2 ^ 32 + 7 ≤ s.cfg.ramBase.toNat + p → t.ramByte p = s.ramByte p)

/-- Fetch coherence (20_memory.md R65; 70_reset_and_hazards.md R186; spec decision D25). For a pc less than four bytes below 2^32 it rests on log entry 16 (DEDUCED). -/
def Obligations.StoreIsSeenByTheNextFetch : Prop :=
  ∀ (s t : State) (rs2 rs1 : RegIx) (imm : BitVec 12), s.wf = true →
    exec (.sw rs2 rs1 imm) s = .next t → s.storeAddr rs1 imm = s.pc →
    t.fetch = .ok ((s.readX rs2).setWidth 32)

/-- The signed loads (40_loads.md R86 to R88), their exceptions as R85 gives them. -/
def Obligations.SignedLoadsExtendTheSign : Prop :=
  DecodesI 0x03#7 0#3 .lb ∧ DecodesI 0x03#7 1#3 .lh ∧ DecodesI 0x03#7 2#3 .lw ∧
    ∀ (rd rs1 : RegIx) (imm : BitVec 12) (s : State),
    let ea := wordOfInt ((s.readX rs1).toInt + imm.toInt);
      (InRam s ea 1 → CompletesWriting (.lb rd rs1 imm) s rd (wordOfInt (BitVec.ofNat 8 (ramNat s (offsetOf s ea) 1)).toInt)) ∧
      (¬ InRam s ea 1 → FaultsFrom (exec (.lb rd rs1 imm) s) s (accessFault s ea 1)) ∧
      (InRam s ea 2 → CompletesWriting (.lh rd rs1 imm) s rd (wordOfInt (BitVec.ofNat 16 (ramNat s (offsetOf s ea) 2)).toInt)) ∧
      (¬ InRam s ea 2 → FaultsFrom (exec (.lh rd rs1 imm) s) s (accessFault s ea 2)) ∧
      (InRam s ea 4 → CompletesWriting (.lw rd rs1 imm) s rd (wordOfInt (BitVec.ofNat 32 (ramNat s (offsetOf s ea) 4)).toInt)) ∧
      (¬ InRam s ea 4 → FaultsFrom (exec (.lw rd rs1 imm) s) s (accessFault s ea 4))

/-- The doubleword and unsigned loads (40_loads.md R89 to R92), their exceptions as R85 gives them. -/
def Obligations.UnsignedLoadsExtendWithZeros : Prop :=
  DecodesI 0x03#7 3#3 .ld ∧ DecodesI 0x03#7 4#3 .lbu ∧ DecodesI 0x03#7 5#3 .lhu ∧ DecodesI 0x03#7 6#3 .lwu ∧
    ∀ (rd rs1 : RegIx) (imm : BitVec 12) (s : State),
    let ea := wordOfInt ((s.readX rs1).toInt + imm.toInt);
      (InRam s ea 8 → CompletesWriting (.ld rd rs1 imm) s rd (BitVec.ofNat 64 (ramNat s (offsetOf s ea) 8))) ∧
      (¬ InRam s ea 8 → FaultsFrom (exec (.ld rd rs1 imm) s) s (accessFault s ea 8)) ∧
      (InRam s ea 1 → CompletesWriting (.lbu rd rs1 imm) s rd (BitVec.ofNat 64 (ramNat s (offsetOf s ea) 1))) ∧
      (¬ InRam s ea 1 → FaultsFrom (exec (.lbu rd rs1 imm) s) s (accessFault s ea 1)) ∧
      (InRam s ea 2 → CompletesWriting (.lhu rd rs1 imm) s rd (BitVec.ofNat 64 (ramNat s (offsetOf s ea) 2))) ∧
      (¬ InRam s ea 2 → FaultsFrom (exec (.lhu rd rs1 imm) s) s (accessFault s ea 2)) ∧
      (InRam s ea 4 → CompletesWriting (.lwu rd rs1 imm) s rd (BitVec.ofNat 64 (ramNat s (offsetOf s ea) 4))) ∧
      (¬ InRam s ea 4 → FaultsFrom (exec (.lwu rd rs1 imm) s) s (accessFault s ea 4))

/-- The stores (43_stores.md R111 to R114), their exceptions as R110 gives them. At an address less than n bytes below 2^32, in a RAM that crosses it, the bytes written at 2^32 and above are log entry 16 (DEDUCED, unsafe), against the consequence R110 draws. -/
def Obligations.StoresWriteTheLowBytes : Prop :=
  DecodesS 0#3 .sb ∧ DecodesS 1#3 .sh ∧ DecodesS 2#3 .sw ∧ DecodesS 3#3 .sd ∧
    ∀ (rs2 rs1 : RegIx) (imm : BitVec 12) (s : State), s.wf = true →
      s.storeAddr rs1 imm = BitVec.ofNat 64 ((wordOfInt ((s.readX rs1).toInt + imm.toInt)).toNat % 2 ^ 32) ∧
      (InRam s (s.storeAddr rs1 imm) 1 → CompletesStoring (.sb rs2 rs1 imm) s (s.storeAddr rs1 imm) 1 (s.readX rs2)) ∧
      (¬ InRam s (s.storeAddr rs1 imm) 1 →
        FaultsFrom (exec (.sb rs2 rs1 imm) s) s (accessFault s (s.storeAddr rs1 imm) 1)) ∧
      (InRam s (s.storeAddr rs1 imm) 2 → CompletesStoring (.sh rs2 rs1 imm) s (s.storeAddr rs1 imm) 2 (s.readX rs2)) ∧
      (¬ InRam s (s.storeAddr rs1 imm) 2 →
        FaultsFrom (exec (.sh rs2 rs1 imm) s) s (accessFault s (s.storeAddr rs1 imm) 2)) ∧
      (InRam s (s.storeAddr rs1 imm) 4 → CompletesStoring (.sw rs2 rs1 imm) s (s.storeAddr rs1 imm) 4 (s.readX rs2)) ∧
      (¬ InRam s (s.storeAddr rs1 imm) 4 →
        FaultsFrom (exec (.sw rs2 rs1 imm) s) s (accessFault s (s.storeAddr rs1 imm) 4)) ∧
      (InRam s (s.storeAddr rs1 imm) 8 → CompletesStoring (.sd rs2 rs1 imm) s (s.storeAddr rs1 imm) 8 (s.readX rs2)) ∧
      (¬ InRam s (s.storeAddr rs1 imm) 8 →
        FaultsFrom (exec (.sd rs2 rs1 imm) s) s (accessFault s (s.storeAddr rs1 imm) 8))

/-- The doubleword AMOs (44_atomics.md R118, R119), their exceptions as R115 gives them. -/
def Obligations.DoublewordAmosReturnTheOldValue : Prop :=
  DecodesAmo 3#3 0x00#5 .amoaddD ∧ DecodesAmo 3#3 0x01#5 .amoswapD ∧
    ∀ (rd rs2 rs1 : RegIx) (aq rl : Bool) (s : State), s.wf = true →
      (InRam s (s.readX rs1) 8 → CompletesSwapping (.amoaddD rd rs2 rs1 aq rl) s (s.readX rs1) 8
        (BitVec.ofNat 64 (ramNat s (offsetOf s (s.readX rs1)) 8 + (s.readX rs2).toNat)) rd (BitVec.ofNat 64 (ramNat s (offsetOf s (s.readX rs1)) 8))) ∧
      (¬ InRam s (s.readX rs1) 8 →
        FaultsFrom (exec (.amoaddD rd rs2 rs1 aq rl) s) s (accessFault s (s.readX rs1) 8)) ∧
      (InRam s (s.readX rs1) 8 → CompletesSwapping (.amoswapD rd rs2 rs1 aq rl) s (s.readX rs1) 8
        (s.readX rs2) rd (BitVec.ofNat 64 (ramNat s (offsetOf s (s.readX rs1)) 8))) ∧
      (¬ InRam s (s.readX rs1) 8 →
        FaultsFrom (exec (.amoswapD rd rs2 rs1 aq rl) s) s (accessFault s (s.readX rs1) 8))

/-- The word AMOs (44_atomics.md R115 to R117) under both settings of AMOW_RD_EXT (spec decision D16). -/
def Obligations.WordAmosReturnTheOldValue : Prop :=
  DecodesAmo 2#3 0x00#5 .amoaddW ∧ DecodesAmo 2#3 0x01#5 .amoswapW ∧
    ∀ (rd rs2 rs1 : RegIx) (aq rl : Bool) (s : State), s.wf = true →
      (InRam s (s.readX rs1) 4 → CompletesSwapping (.amoaddW rd rs2 rs1 aq rl) s (s.readX rs1) 4
        (BitVec.ofNat 64 (ramNat s (offsetOf s (s.readX rs1)) 4 + low32 (s.readX rs2))) rd (if s.cfg.amowRdExt = .zext then BitVec.ofNat 64 (ramNat s (offsetOf s (s.readX rs1)) 4) else sextOfNat32 (ramNat s (offsetOf s (s.readX rs1)) 4))) ∧
      (¬ InRam s (s.readX rs1) 4 →
        FaultsFrom (exec (.amoaddW rd rs2 rs1 aq rl) s) s (accessFault s (s.readX rs1) 4)) ∧
      (InRam s (s.readX rs1) 4 → CompletesSwapping (.amoswapW rd rs2 rs1 aq rl) s (s.readX rs1) 4
        (s.readX rs2) rd (if s.cfg.amowRdExt = .zext then BitVec.ofNat 64 (ramNat s (offsetOf s (s.readX rs1)) 4) else sextOfNat32 (ramNat s (offsetOf s (s.readX rs1)) 4))) ∧
      (¬ InRam s (s.readX rs1) 4 →
        FaultsFrom (exec (.amoswapW rd rs2 rs1 aq rl) s) s (accessFault s (s.readX rs1) 4))

/-- The register-immediate arithmetic and logic instructions (41_alu_immediate.md R95 to R100). -/
def Obligations.ImmediateArithmeticAndLogic : Prop :=
  DecodesI 0x13#7 0#3 .addi ∧ DecodesI 0x13#7 2#3 .slti ∧ DecodesI 0x13#7 3#3 .sltiu ∧
    DecodesI 0x13#7 4#3 .xori ∧ DecodesI 0x13#7 6#3 .ori ∧ DecodesI 0x13#7 7#3 .andi ∧
    ∀ (rd rs1 : RegIx) (imm : BitVec 12) (s : State),
      CompletesWriting (.addi rd rs1 imm) s rd (wordOfInt ((s.readX rs1).toInt + imm.toInt)) ∧
      CompletesWriting (.slti rd rs1 imm) s rd (boolValue ((s.readX rs1).toInt < imm.toInt)) ∧
      CompletesWriting (.sltiu rd rs1 imm) s rd (boolValue ((s.readX rs1).toNat < (wordOfInt imm.toInt).toNat)) ∧
      CompletesWriting (.xori rd rs1 imm) s rd ((s.readX rs1) ^^^ wordOfInt imm.toInt) ∧
      CompletesWriting (.ori rd rs1 imm) s rd ((s.readX rs1) ||| wordOfInt imm.toInt) ∧
      CompletesWriting (.andi rd rs1 imm) s rd ((s.readX rs1) &&& wordOfInt imm.toInt)

/-- The 64-bit immediate shifts (41_alu_immediate.md R93, R101 to R103) under both settings of SHIFT64_MODE. -/
def Obligations.ImmediateShiftsFollowTheQuirk : Prop :=
  DecodesShift64 1#3 0x00#6 .slli ∧ DecodesShift64 5#3 0x00#6 .srli ∧ DecodesShift64 5#3 0x10#6 .srai ∧
    ∀ (rd rs1 : RegIx) (shamt : BitVec 6) (s : State),
      CompletesWriting (.slli rd rs1 shamt) s rd (BitVec.ofNat 64 (natLsl 64 (s.readX rs1).toNat shamt.toNat)) ∧
      CompletesWriting (.srli rd rs1 shamt) s rd (BitVec.ofNat 64 (specSrl s.cfg.shift64Mode 64 (s.readX rs1).toNat shamt.toNat)) ∧
      CompletesWriting (.srai rd rs1 shamt) s rd (BitVec.ofNat 64 (specSra s.cfg.shift64Mode 64 (s.readX rs1).toNat shamt.toNat))

/-- Word-slice addition and subtraction (41_alu_immediate.md R104; 45_alu_register.md R131, R132). -/
def Obligations.WordSumsAndDifferences : Prop :=
  DecodesI 0x1b#7 0#3 .addiw ∧ DecodesR 0x3b#7 0#3 0x00#7 .addw ∧ DecodesR 0x3b#7 0#3 0x20#7 .subw ∧
    ∀ (rd rs1 rs2 : RegIx) (imm : BitVec 12) (s : State),
      CompletesWriting (.addiw rd rs1 imm) s rd (sextOfNat32 (low32 (s.readX rs1) + low32 (wordOfInt imm.toInt))) ∧
      CompletesWriting (.addw rd rs1 rs2) s rd (sextOfNat32 (low32 (s.readX rs1) + low32 (s.readX rs2))) ∧
      CompletesWriting (.subw rd rs1 rs2) s rd (sextOfNat32 (low32 (s.readX rs1) + (2 ^ 32 - low32 (s.readX rs2))))

/-- The word-slice shifts (41_alu_immediate.md R94, R105 to R107; 45_alu_register.md R134 to R136) under both settings of SHIFTW_MODE; 90_conflicts.md C2. -/
def Obligations.WordShiftsFollowTheQuirk : Prop :=
  DecodesShift32 1#3 0x00#7 .slliw ∧ DecodesShift32 5#3 0x00#7 .srliw ∧ DecodesShift32 5#3 0x20#7 .sraiw ∧
    DecodesR 0x3b#7 1#3 0x00#7 .sllw ∧ DecodesR 0x3b#7 5#3 0x00#7 .srlw ∧ DecodesR 0x3b#7 5#3 0x20#7 .sraw ∧
    ∀ (rd rs1 rs2 : RegIx) (shamt : BitVec 5) (s : State),
      CompletesWriting (.slliw rd rs1 shamt) s rd (sextOfNat32 (natLsl 32 (low32 (s.readX rs1)) shamt.toNat)) ∧
      CompletesWriting (.srliw rd rs1 shamt) s rd (sextOfNat32 (specSrl s.cfg.shiftWMode 32 (low32 (s.readX rs1)) shamt.toNat)) ∧
      CompletesWriting (.sraiw rd rs1 shamt) s rd (sextOfNat32 (specSra s.cfg.shiftWMode 32 (low32 (s.readX rs1)) shamt.toNat)) ∧
      CompletesWriting (.sllw rd rs1 rs2) s rd (sextOfNat32 (specSll s.cfg.shiftWMode 32 (low32 (s.readX rs1)) ((s.readX rs2).toNat % 32))) ∧
      CompletesWriting (.srlw rd rs1 rs2) s rd (sextOfNat32 (specSrl s.cfg.shiftWMode 32 (low32 (s.readX rs1)) ((s.readX rs2).toNat % 32))) ∧
      CompletesWriting (.sraw rd rs1 rs2) s rd (sextOfNat32 (specSra s.cfg.shiftWMode 32 (low32 (s.readX rs1)) ((s.readX rs2).toNat % 32)))

/-- The upper-immediate instructions (42_upper_immediate.md R108, R109). -/
def Obligations.UpperImmediates : Prop :=
  DecodesU 0x17#7 .auipc ∧ DecodesU 0x37#7 .lui ∧
    ∀ (rd : RegIx) (imm20 : BitVec 20) (s : State),
      CompletesWriting (.auipc rd imm20) s rd ((s.pc - 4#64) + sextOfNat32 (imm20.toNat * 2 ^ 12)) ∧
      CompletesWriting (.lui rd imm20) s rd (sextOfNat32 (imm20.toNat * 2 ^ 12))

/-- The register arithmetic and logic instructions (45_alu_register.md R120, R121, R124 to R126, R129, R130). -/
def Obligations.RegisterArithmeticAndLogic : Prop :=
  DecodesR 0x33#7 0#3 0x00#7 .add ∧ DecodesR 0x33#7 0#3 0x20#7 .sub ∧ DecodesR 0x33#7 2#3 0x00#7 .slt ∧
    DecodesR 0x33#7 3#3 0x00#7 .sltu ∧ DecodesR 0x33#7 4#3 0x00#7 .xor ∧ DecodesR 0x33#7 6#3 0x00#7 .or ∧
    DecodesR 0x33#7 7#3 0x00#7 .and ∧
    ∀ (rd rs1 rs2 : RegIx) (s : State),
      CompletesWriting (.add rd rs1 rs2) s rd (wordOfInt ((s.readX rs1).toInt + (s.readX rs2).toInt)) ∧
      CompletesWriting (.sub rd rs1 rs2) s rd (wordOfInt ((s.readX rs1).toInt - (s.readX rs2).toInt)) ∧
      CompletesWriting (.slt rd rs1 rs2) s rd (boolValue ((s.readX rs1).toInt < (s.readX rs2).toInt)) ∧
      CompletesWriting (.sltu rd rs1 rs2) s rd (boolValue ((s.readX rs1).toNat < (s.readX rs2).toNat)) ∧
      CompletesWriting (.xor rd rs1 rs2) s rd ((s.readX rs1) ^^^ (s.readX rs2)) ∧
      CompletesWriting (.or rd rs1 rs2) s rd ((s.readX rs1) ||| (s.readX rs2)) ∧
      CompletesWriting (.and rd rs1 rs2) s rd ((s.readX rs1) &&& (s.readX rs2))

/-- The multiplies (45_alu_register.md R122, R133; spec decisions D10 and D13). -/
def Obligations.MultipliesKeepTheLowHalf : Prop :=
  DecodesR 0x33#7 0#3 0x01#7 .mul ∧
    (∀ w, opcodeOf w = 0x3b#7 → funct3Of w = 0#3 → funct7Of w = 0x01#7 →
      decodeWord true w = .ok (.mulw (rdOf w) (rs1Of w) (rs2Of w)) ∧ decodeWord false w = .error .mulwAbsent) ∧
    ∀ (rd rs1 rs2 : RegIx) (s : State),
      CompletesWriting (.mul rd rs1 rs2) s rd (BitVec.ofNat 64 ((s.readX rs1).toNat * (s.readX rs2).toNat)) ∧
      CompletesWriting (.mul rd rs1 rs2) s rd (wordOfInt ((s.readX rs1).toInt * (s.readX rs2).toInt)) ∧
      CompletesWriting (.mulw rd rs1 rs2) s rd (sextOfNat32 (low32 (s.readX rs1) * low32 (s.readX rs2)))

/-- The 64-bit register shifts (45_alu_register.md R123, R127, R128; 41_alu_immediate.md R93) under both settings of SHIFT64_MODE. -/
def Obligations.RegisterShiftsFollowTheQuirk : Prop :=
  DecodesR 0x33#7 1#3 0x00#7 .sll ∧ DecodesR 0x33#7 5#3 0x00#7 .srl ∧ DecodesR 0x33#7 5#3 0x20#7 .sra ∧
    ∀ (rd rs1 rs2 : RegIx) (s : State),
      CompletesWriting (.sll rd rs1 rs2) s rd (BitVec.ofNat 64 (specSll s.cfg.shift64Mode 64 (s.readX rs1).toNat ((s.readX rs2).toNat % 64))) ∧
      CompletesWriting (.srl rd rs1 rs2) s rd (BitVec.ofNat 64 (specSrl s.cfg.shift64Mode 64 (s.readX rs1).toNat ((s.readX rs2).toNat % 64))) ∧
      CompletesWriting (.sra rd rs1 rs2) s rd (BitVec.ofNat 64 (specSra s.cfg.shift64Mode 64 (s.readX rs1).toNat ((s.readX rs2).toNat % 64)))

/-- Consequences of the rotate-style shifts (41_alu_immediate.md R93, R94), which the spec derives. -/
def Obligations.QuirkShiftsRotateBits : Prop :=
  ∀ W : Nat, (W = 64 ∨ W = 32) → ∀ (v : BitVec W) (s : Nat), s < W →
    (∀ i, i < W → (qsrl .quirk v s).getLsbD i = v.getLsbD ((i + s) % W) ∧
      (qsll .quirk v s).getLsbD ((i + s) % W) = v.getLsbD i) ∧
    (v.getLsbD (W - 1) = true → qsra .quirk v s = v.sshiftRight s) ∧
    (v.getLsbD (W - 1) = false → qsra .quirk v s = qsrl .quirk v s) ∧
    qsll .quirk v 0 = v ∧ qsrl .quirk v 0 = v ∧ qsra .quirk v 0 = v

/-- The branches (46_control_transfer.md R138 to R143). -/
def Obligations.BranchesCompareAndJump : Prop :=
  DecodesB 0#3 .beq ∧ DecodesB 1#3 .bne ∧ DecodesB 4#3 .blt ∧ DecodesB 5#3 .bge ∧ DecodesB 6#3 .bltu ∧ DecodesB 7#3 .bgeu ∧
    ∀ (rs1 rs2 : RegIx) (imm : BitVec 13) (s : State),
      CompletesJumping (.beq rs1 rs2 imm) s
        (if s.readX rs1 = s.readX rs2 then (s.pc - 4#64) + wordOfInt imm.toInt else s.pc) ∧
      CompletesJumping (.bne rs1 rs2 imm) s
        (if s.readX rs1 ≠ s.readX rs2 then (s.pc - 4#64) + wordOfInt imm.toInt else s.pc) ∧
      CompletesJumping (.blt rs1 rs2 imm) s
        (if (s.readX rs1).toInt < (s.readX rs2).toInt then (s.pc - 4#64) + wordOfInt imm.toInt else s.pc) ∧
      CompletesJumping (.bge rs1 rs2 imm) s
        (if (s.readX rs2).toInt ≤ (s.readX rs1).toInt then (s.pc - 4#64) + wordOfInt imm.toInt else s.pc) ∧
      CompletesJumping (.bltu rs1 rs2 imm) s
        (if (s.readX rs1).toNat < (s.readX rs2).toNat then (s.pc - 4#64) + wordOfInt imm.toInt else s.pc) ∧
      CompletesJumping (.bgeu rs1 rs2 imm) s
        (if (s.readX rs2).toNat ≤ (s.readX rs1).toNat then (s.pc - 4#64) + wordOfInt imm.toInt else s.pc)

/-- jal (46_control_transfer.md R145). -/
def Obligations.JalLinksAndJumps : Prop :=
  (∀ hasMulw w, opcodeOf w = 0x6f#7 → decodeWord hasMulw w = .ok (.jal (rdOf w) (immJOf w))) ∧
    ∀ (rd : RegIx) (imm : BitVec 21) (s : State),
      CompletesLinking (.jal rd imm) s ((s.pc - 4#64) + wordOfInt imm.toInt) rd s.pc

/-- jalr (46_control_transfer.md R144) under both settings of SEQUENTIAL_LINK (spec decision D15). -/
def Obligations.JalrLinksAndJumps : Prop :=
  DecodesI 0x67#7 0#3 .jalr ∧
    ∀ (rd rs1 : RegIx) (imm : BitVec 12) (s : State),
      CompletesLinking (.jalr rd rs1 imm) s
        (wordOfInt ((if s.cfg.sequentialLink = true ∧ rd = rs1 ∧ rd ≠ 0#5 then s.pc else s.readX rs1).toInt + imm.toInt)
          &&& ~~~1#64) rd s.pc

/-- The register forms of CSR access (47_system.md R149 to R151), SEQUENTIAL_LINK false. -/
def Obligations.CsrRegisterForms : Prop :=
  DecodesCsr 1#3 .csrrw ∧ DecodesCsr 2#3 .csrrs ∧ DecodesCsr 3#3 .csrrc ∧
    ∀ (rd : RegIx) (csr : CsrAddr) (rs1 : RegIx) (s : State), s.wf = true → s.cfg.sequentialLink = false →
      CompletesCsr (.csrrw rd csr rs1) s csr (s.readX rs1) rd (s.csrRead csr) ∧
      CompletesCsr (.csrrs rd csr rs1) s csr (s.csrRead csr ||| s.readX rs1) rd (s.csrRead csr) ∧
      CompletesCsr (.csrrc rd csr rs1) s csr (s.csrRead csr &&& ~~~(s.readX rs1)) rd (s.csrRead csr)

/-- The register forms under the literal sentence order (47_system.md R148, spec decision D15). -/
def Obligations.CsrRegisterFormsSequential : Prop :=
  ∀ (rd : RegIx) (csr : CsrAddr) (rs1 : RegIx) (s : State), s.wf = true → s.cfg.sequentialLink = true →
      CompletesCsr (.csrrw rd csr rs1) s csr (if rd = rs1 ∧ rd ≠ 0#5 then s.csrRead csr else s.readX rs1) rd (s.csrRead csr) ∧
      CompletesCsr (.csrrs rd csr rs1) s csr (s.csrRead csr ||| (if rd = rs1 ∧ rd ≠ 0#5 then s.csrRead csr else s.readX rs1)) rd (s.csrRead csr) ∧
      CompletesCsr (.csrrc rd csr rs1) s csr (s.csrRead csr &&& ~~~(if rd = rs1 ∧ rd ≠ 0#5 then s.csrRead csr else s.readX rs1)) rd (s.csrRead csr)

/-- The immediate forms of CSR access (47_system.md R152 to R154). -/
def Obligations.CsrImmediateForms : Prop :=
  DecodesCsr 5#3 .csrrwi ∧ DecodesCsr 6#3 .csrrsi ∧ DecodesCsr 7#3 .csrrci ∧
    ∀ (rd : RegIx) (csr : CsrAddr) (zimm : BitVec 5) (s : State), s.wf = true →
      CompletesCsr (.csrrwi rd csr zimm) s csr (BitVec.ofNat 64 zimm.toNat) rd (s.csrRead csr) ∧
      CompletesCsr (.csrrsi rd csr zimm) s csr (s.csrRead csr ||| BitVec.ofNat 64 zimm.toNat) rd (s.csrRead csr) ∧
      CompletesCsr (.csrrci rd csr zimm) s csr (s.csrRead csr &&& ~~~(BitVec.ofNat 64 zimm.toNat)) rd (s.csrRead csr)

/-- sret (47_system.md R155). -/
def Obligations.SretRestoresFromSstatus : Prop :=
  (∀ hasMulw, decodeWord hasMulw 0x10200073#32 = .ok .sret) ∧
    ∀ s : State, s.wf = true →
      ∃ v : Word,
        (∀ k, k < 64 → v.getLsbD k =
          if k = 1 then (s.csrRead 0x100#12).getLsbD 5 else if k = 5 then true else if k = 8 then false
          else (s.csrRead 0x100#12).getLsbD k) ∧
        CompletesReturning .sret s (s.csrRead 0x141#12)
          (if (s.csrRead 0x100#12).getLsbD 8 then .supervisor else .user) 0x100#12 v

/-- mret (47_system.md R156; 60_exceptions.md R169) under every setting of MPP2_BEHAVIOUR (spec decision D18). -/
def Obligations.MretRestoresFromMstatus : Prop :=
  (∀ hasMulw, decodeWord hasMulw 0x30200073#32 = .ok .mret) ∧
    ∀ s : State, s.wf = true →
      ((s.csrRead 0x300#12).extractLsb' 11 2 ≠ 2#2 ∨ s.cfg.mpp2Behaviour ≠ .fault →
        ∃ v : Word,
          (∀ k, k < 64 → v.getLsbD k =
            if k = 3 then (s.csrRead 0x300#12).getLsbD 7 else if k = 7 then true
            else if k = 11 ∨ k = 12 then false else (s.csrRead 0x300#12).getLsbD k) ∧
          CompletesReturning .mret s (s.csrRead 0x341#12) (nextMode s .mret) 0x300#12 v) ∧
      ((s.csrRead 0x300#12).extractLsb' 11 2 = 2#2 → s.cfg.mpp2Behaviour = .fault →
        FaultsFrom (exec .mret s) s (.reservedMPP (s.csrRead 0x300#12)))

/-- sfence.vma (47_system.md R157). -/
def Obligations.SfenceVmaDoesNothing : Prop :=
  (∀ hasMulw w, opcodeOf w = 0x73#7 → funct3Of w = 0#3 → funct7Of w = 0x09#7 → rdOf w = 0#5 →
      decodeWord hasMulw w = .ok (.sfenceVma (rs1Of w) (rs2Of w))) ∧
    ∀ (rs1 rs2 : RegIx) (s : State), exec (.sfenceVma rs1 rs2) s = .next s

/-- Construction (70_reset_and_hazards.md R182; 10_state.md R46). -/
def Obligations.ConstructionLaysOutTheCore : Prop :=
  ∀ (cfg : Config) (d : Draws) (image : List Byte) (t : State), cfg.wf = true → d.wf cfg.ramSize = true →
    State.construct cfg d image = .ok t →
    t.cfg = cfg ∧ t.pc = cfg.ramBase ∧ t.mode = .machine ∧ t.status = .running ∧ t.f = d.fpr ∧
    t.readX 0#5 = 0#64 ∧ t.readX 2#5 = BitVec.ofNat 64 (cfg.ramBase.toNat + cfg.ramSize) ∧
    (∀ r : RegIx, r ≠ 0#5 → r ≠ 2#5 → t.readX r = d.gpr[r.toNat]'r.isLt) ∧
    (∀ a : CsrAddr, t.csrSlot a = getCell d.csr a.toNat) ∧
    (∀ k (h : k < image.length), t.ramByte k = image[k]) ∧
    ∀ k, image.length ≤ k → t.ramByte k = getCell d.ram k

/-- Image acceptance (70_reset_and_hazards.md R183; 90_conflicts.md C3; spec decisions D3 and D26). -/
def Obligations.ConstructionAcceptsExactlyFittingImages : Prop :=
  ∀ (cfg : Config) (d : Draws) (image : List Byte), cfg.wf = true →
    ((∃ t, State.construct cfg d image = .ok t) ↔ image.length + cfg.imageMargin ≤ cfg.ramSize) ∧
    (cfg.ramSize < image.length + cfg.imageMargin →
      State.construct cfg d image = .error (.imageTooLarge image.length)) ∧
    (cfg.ramSize ≤ image.length → State.construct cfg d image = .error (.imageTooLarge image.length))

/-- The reset state is one of the spec's constructions; it rests on the values log entries 1 to 6 choose. -/
def Obligations.ResetIsAnEmptyDefaultConstruction : Prop :=
  State.construct Config.default Draws.zero [] = .ok State.reset

/-- The run loop and its end (60_exceptions.md R162, R163, spec decision D29), under fuel (70_reset_and_hazards.md R188; log entry 18). -/
def Obligations.RunsEndOnlyHaltedOrFaulted : Prop :=
  ∀ (n : Nat) (s : State),
    (∀ t, step s = .next t → t.status = .running → s.run (n + 1) = t.run n) ∧
    (∀ t, step s = .next t → t.status = .halted → s.run (n + 1) = .halted t) ∧
    (∀ r left, step s = .fault (.raised r left) → s.run (n + 1) = .faulted r left) ∧
    (s.status ≠ .running → s.run (n + 1) = .noTransition s) ∧
    (∀ t, s.run n = .halted t → t.pc = 0#64 ∧ t.status = .halted) ∧
    (∀ r left, s.run n = .faulted r left → left.status = .faulted r) ∧
    (s.status = .running → (∀ left, s.run n ≠ .noTransition left) ∧ ∀ t, s.run n = .outOfFuel t → t.status = .running)

/-- The trace hook (60_exceptions.md R180, spec decision D30); that it is a function of the state is log entry 18. DecodeAcceptsExactlyTheTableRows says that mnemonicOf is the mnemonic of the table. -/
def Obligations.TraceNamesTheInstructionStepRuns : Prop :=
  ∀ s : State,
    (∀ i, s.status = .running → InRam s s.pc 4 → decodeWord s.cfg.hasMulw (wordAtPc s) = .ok i →
      s.traceOf = some { pc := s.pc, raw := wordAtPc s, mnemonic := mnemonicOf i } ∧
        step s = haltCheck (exec i s.preAdvance)) ∧
    ((s.status ≠ .running ∨ ¬ InRam s s.pc 4 ∨ ∃ e, decodeWord s.cfg.hasMulw (wordAtPc s) = .error e) →
      s.traceOf = none)
end

