-- ==== Sys2Proof/Laws/Cells.lean ====
section
/-! SUPPORT. The laws of sparse storage: a read after a write, other keys left alone, and the canonical form kept. -/

namespace Sys2Proof.Machine

variable {w : Nat}

theorem getCell_consCell_ne (cells : List (Nat × BitVec w)) (k j : Nat) (v : BitVec w) (h : j ≠ k) :
    getCell (consCell k v cells) j = getCell cells j := by
  unfold consCell
  split
  · rfl
  · simp [getCell, Ne.symm h]

/-- A write leaves every other key alone, whatever the list. -/
theorem getCell_setCell_ne (cells : List (Nat × BitVec w)) (k j : Nat) (v : BitVec w) (h : j ≠ k) :
    getCell (setCell cells k v) j = getCell cells j := by
  induction cells with
  | nil => simp [setCell, getCell_consCell_ne _ _ _ _ h]
  | cons c rest ih =>
    obtain ⟨a, u⟩ := c
    simp only [setCell]
    split
    · simp only [getCell, ih]
    · split
      · next hak =>
        rw [getCell_consCell_ne _ _ _ _ h]
        simp [getCell, hak, Ne.symm h]
      · rw [getCell_consCell_ne _ _ _ _ h]

/-- A key below a canonical list's least key reads as unlisted. -/
theorem getCell_below {lo hi : Nat} (cells : List (Nat × BitVec w)) (k : Nat) (hk : k < lo)
    (h : cellsWf lo hi cells = true) : getCell cells k = unlistedCell w := by
  induction cells generalizing lo with
  | nil => rfl
  | cons c rest ih =>
    obtain ⟨a, u⟩ := c
    simp only [cellsWf, Bool.and_eq_true, decide_eq_true_eq] at h
    have hne : a ≠ k := by omega
    simp only [getCell, hne, if_false]
    exact ih (by omega : k < a + 1) h.2

theorem getCell_consCell_self {lo hi : Nat} (cells : List (Nat × BitVec w)) (k : Nat) (v : BitVec w) (hk : k < lo)
    (h : cellsWf lo hi cells = true) : getCell (consCell k v cells) k = v := by
  unfold consCell
  split
  · next hv => rw [getCell_below cells k hk h, hv]
  · simp [getCell]

/-- A read after a write to the same key gives the value written. -/
theorem getCell_setCell_self {lo hi : Nat} (cells : List (Nat × BitVec w)) (k : Nat) (v : BitVec w)
    (h : cellsWf lo hi cells = true) : getCell (setCell cells k v) k = v := by
  induction cells generalizing lo with
  | nil => exact getCell_consCell_self (lo := k + 1) (hi := hi) [] k v (by omega) rfl
  | cons c rest ih =>
    obtain ⟨a, u⟩ := c
    have hr := h
    simp only [cellsWf, Bool.and_eq_true, decide_eq_true_eq] at hr
    simp only [setCell]
    split
    · next hlt =>
      have hne : a ≠ k := by omega
      simp only [getCell, hne, if_false]
      exact ih hr.2
    · split
      · next hak => exact getCell_consCell_self rest k v (by omega : k < a + 1) hr.2
      · next hlt hne =>
        refine getCell_consCell_self (lo := a) (hi := hi) ((a, u) :: rest) k v (by omega) ?_
        simp only [cellsWf, Bool.and_eq_true, decide_eq_true_eq]
        exact ⟨⟨⟨le_refl a, hr.1.1.2⟩, hr.1.2⟩, hr.2⟩

theorem cellsWf_mono {lo lo' hi : Nat} (cells : List (Nat × BitVec w)) (hl : lo' ≤ lo)
    (h : cellsWf lo hi cells = true) : cellsWf lo' hi cells = true := by
  cases cells with
  | nil => rfl
  | cons c rest =>
    obtain ⟨a, u⟩ := c
    simp only [cellsWf, Bool.and_eq_true, decide_eq_true_eq] at h ⊢
    exact ⟨⟨⟨by omega, h.1.1.2⟩, h.1.2⟩, h.2⟩

theorem cellsWf_consCell {lo hi : Nat} (cells : List (Nat × BitVec w)) (k : Nat) (v : BitVec w) (hlo : lo ≤ k)
    (hhi : k < hi) (h : cellsWf (k + 1) hi cells = true) : cellsWf lo hi (consCell k v cells) = true := by
  unfold consCell
  split
  · exact cellsWf_mono cells (by omega) h
  · next hv =>
    simp only [cellsWf, Bool.and_eq_true, decide_eq_true_eq]
    exact ⟨⟨⟨hlo, hhi⟩, hv⟩, h⟩

/-- A write within bounds keeps the canonical form. -/
theorem cellsWf_setCell {lo hi : Nat} (cells : List (Nat × BitVec w)) (k : Nat) (v : BitVec w) (hlo : lo ≤ k)
    (hhi : k < hi) (h : cellsWf lo hi cells = true) : cellsWf lo hi (setCell cells k v) = true := by
  induction cells generalizing lo with
  | nil => exact cellsWf_consCell [] k v hlo hhi rfl
  | cons c rest ih =>
    obtain ⟨a, u⟩ := c
    simp only [cellsWf, Bool.and_eq_true, decide_eq_true_eq] at h
    simp only [setCell]
    split
    · simp only [cellsWf, Bool.and_eq_true, decide_eq_true_eq]
      exact ⟨⟨⟨h.1.1.1, h.1.1.2⟩, h.1.2⟩, ih (by omega) h.2⟩
    · split
      · next hak => subst hak; exact cellsWf_consCell rest a v hlo hhi h.2
      · refine cellsWf_consCell _ k v hlo hhi ?_
        simp only [cellsWf, Bool.and_eq_true, decide_eq_true_eq]
        exact ⟨⟨⟨by omega, h.1.1.2⟩, h.1.2⟩, h.2⟩

theorem mem_consCell (cells : List (Nat × BitVec w)) (k : Nat) (v : BitVec w) (c : Nat × BitVec w)
    (h : c ∈ consCell k v cells) : c.1 = k ∨ c ∈ cells := by
  unfold consCell at h
  split at h
  · exact .inr h
  · rcases List.mem_cons.mp h with rfl | h
    · exact .inl rfl
    · exact .inr h

/-- Every pair after a write is of the written key or was there before. -/
theorem mem_setCell (cells : List (Nat × BitVec w)) (k : Nat) (v : BitVec w) (c : Nat × BitVec w)
    (h : c ∈ setCell cells k v) : c.1 = k ∨ c ∈ cells := by
  induction cells with
  | nil => exact mem_consCell [] k v c h
  | cons d rest ih =>
    obtain ⟨a, u⟩ := d
    simp only [setCell] at h
    split at h
    · rcases List.mem_cons.mp h with rfl | h
      · exact .inr List.mem_cons_self
      · exact (ih h).imp_right (List.mem_cons_of_mem _)
    · split at h
      · exact (mem_consCell _ _ _ _ h).imp_right (List.mem_cons_of_mem _)
      · exact mem_consCell _ _ _ _ h

/-- A write within RAM keeps Memory's canonical form. -/
theorem Memory.wf_setCell {size : Nat} (m : Memory) (k : Nat) (b : Byte) (hk : k < size)
    (h : Memory.wf size m = true) : Memory.wf size (setCell m k b) = true :=
  cellsWf_setCell m k b (Nat.zero_le k) hk h

/-- A write to a slot other than SIE keeps the CSR bank's canonical form. -/
theorem CsrBank.wf_setCell (b : CsrBank) (a : CsrAddr) (v : Word) (ha : a.toNat ≠ 0x104)
    (h : CsrBank.wf b = true) : CsrBank.wf (setCell b a.toNat v) = true := by
  simp only [CsrBank.wf, Bool.and_eq_true, List.all_eq_true, decide_eq_true_eq] at h ⊢
  refine ⟨cellsWf_setCell b a.toNat v (Nat.zero_le _) a.isLt h.1, fun c hc => ?_⟩
  rcases mem_setCell b a.toNat v c hc with hk | hc
  · rw [hk]; exact ha
  · exact h.2 c hc

end Sys2Proof.Machine
end

