-- ==== Sys2Proof/Laws/Encoding.lean ====
section
/-! SUPPORT. The bits of each instruction format, and each field of a word that a format built (30_encoding.md R68 to
R75). What decodes an encoded instruction rewrites with these and never unfolds a word. -/

namespace Sys2Proof

/-- The bits of rWord. -/
theorem rWord_getLsbD (funct7 : BitVec 7) (rs2 rs1 : RegIx) (funct3 : BitVec 3) (rd : RegIx) (opcode : BitVec 7) (i : Nat) :
    (rWord funct7 rs2 rs1 funct3 rd opcode).getLsbD i =
      if i < 7 then opcode.getLsbD i
      else if i < 12 then rd.getLsbD (i - 7)
      else if i < 15 then funct3.getLsbD (i - 12)
      else if i < 20 then rs1.getLsbD (i - 15)
      else if i < 25 then rs2.getLsbD (i - 20)
      else funct7.getLsbD (i - 25) := by
  change (funct7 ++ rs2 ++ rs1 ++ funct3 ++ rd ++ opcode : BitVec (7 + 5 + 5 + 3 + 5 + 7)).getLsbD i = _
  simp only [BitVec.getLsbD_append]
  grind

/-- The bits of iWord. -/
theorem iWord_getLsbD (imm : BitVec 12) (rs1 : RegIx) (funct3 : BitVec 3) (rd : RegIx) (opcode : BitVec 7) (i : Nat) :
    (iWord imm rs1 funct3 rd opcode).getLsbD i =
      if i < 7 then opcode.getLsbD i
      else if i < 12 then rd.getLsbD (i - 7)
      else if i < 15 then funct3.getLsbD (i - 12)
      else if i < 20 then rs1.getLsbD (i - 15)
      else imm.getLsbD (i - 20) := by
  change (imm ++ rs1 ++ funct3 ++ rd ++ opcode : BitVec (12 + 5 + 3 + 5 + 7)).getLsbD i = _
  simp only [BitVec.getLsbD_append]
  grind

/-- The bits of shift64Word. -/
theorem shift64Word_getLsbD (funct6 : BitVec 6) (shamt : BitVec 6) (rs1 : RegIx) (funct3 : BitVec 3) (rd : RegIx) (i : Nat) :
    (shift64Word funct6 shamt rs1 funct3 rd).getLsbD i =
      if i < 7 then (0x13#7).getLsbD i
      else if i < 12 then rd.getLsbD (i - 7)
      else if i < 15 then funct3.getLsbD (i - 12)
      else if i < 20 then rs1.getLsbD (i - 15)
      else if i < 26 then shamt.getLsbD (i - 20)
      else funct6.getLsbD (i - 26) := by
  change (funct6 ++ shamt ++ rs1 ++ funct3 ++ rd ++ 0x13#7 : BitVec (6 + 6 + 5 + 3 + 5 + 7)).getLsbD i = _
  simp only [BitVec.getLsbD_append]
  grind

/-- The bits of shift32Word. -/
theorem shift32Word_getLsbD (funct7 : BitVec 7) (shamt : BitVec 5) (rs1 : RegIx) (funct3 : BitVec 3) (rd : RegIx) (i : Nat) :
    (shift32Word funct7 shamt rs1 funct3 rd).getLsbD i =
      if i < 7 then (0x1b#7).getLsbD i
      else if i < 12 then rd.getLsbD (i - 7)
      else if i < 15 then funct3.getLsbD (i - 12)
      else if i < 20 then rs1.getLsbD (i - 15)
      else if i < 25 then shamt.getLsbD (i - 20)
      else funct7.getLsbD (i - 25) := by
  change (funct7 ++ shamt ++ rs1 ++ funct3 ++ rd ++ 0x1b#7 : BitVec (7 + 5 + 5 + 3 + 5 + 7)).getLsbD i = _
  simp only [BitVec.getLsbD_append]
  grind

/-- The bits of amoWord. -/
theorem amoWord_getLsbD (funct5 : BitVec 5) (aq rl : Bool) (rs2 rs1 : RegIx) (funct3 : BitVec 3) (rd : RegIx) (i : Nat) :
    (amoWord funct5 aq rl rs2 rs1 funct3 rd).getLsbD i =
      if i < 7 then (0x2f#7).getLsbD i
      else if i < 12 then rd.getLsbD (i - 7)
      else if i < 15 then funct3.getLsbD (i - 12)
      else if i < 20 then rs1.getLsbD (i - 15)
      else if i < 25 then rs2.getLsbD (i - 20)
      else if i < 26 then (BitVec.ofBool rl).getLsbD (i - 25)
      else if i < 27 then (BitVec.ofBool aq).getLsbD (i - 26)
      else funct5.getLsbD (i - 27) := by
  change (funct5 ++ BitVec.ofBool aq ++ BitVec.ofBool rl ++ rs2 ++ rs1 ++ funct3 ++ rd ++ 0x2f#7 : BitVec (5 + 1 + 1 + 5 + 5 + 3 + 5 + 7)).getLsbD i = _
  simp only [BitVec.getLsbD_append]
  grind

/-- The bits of uWord. -/
theorem uWord_getLsbD (imm20 : BitVec 20) (rd : RegIx) (opcode : BitVec 7) (i : Nat) :
    (uWord imm20 rd opcode).getLsbD i =
      if i < 7 then opcode.getLsbD i
      else if i < 12 then rd.getLsbD (i - 7)
      else imm20.getLsbD (i - 12) := by
  change (imm20 ++ rd ++ opcode : BitVec (20 + 5 + 7)).getLsbD i = _
  simp only [BitVec.getLsbD_append]
  grind

/-- The bits of sWord. -/
theorem sWord_getLsbD (imm : BitVec 12) (rs2 rs1 : RegIx) (funct3 : BitVec 3) (i : Nat) :
    (sWord imm rs2 rs1 funct3).getLsbD i =
      if i < 7 then (0x23#7).getLsbD i
      else if i < 12 then (imm.extractLsb' 0 5).getLsbD (i - 7)
      else if i < 15 then funct3.getLsbD (i - 12)
      else if i < 20 then rs1.getLsbD (i - 15)
      else if i < 25 then rs2.getLsbD (i - 20)
      else (imm.extractLsb' 5 7).getLsbD (i - 25) := by
  change (imm.extractLsb' 5 7 ++ rs2 ++ rs1 ++ funct3 ++ imm.extractLsb' 0 5 ++ 0x23#7 : BitVec (7 + 5 + 5 + 3 + 5 + 7)).getLsbD i = _
  simp only [BitVec.getLsbD_append]
  grind

/-- The bits of bWord. -/
theorem bWord_getLsbD (imm : BitVec 13) (rs2 rs1 : RegIx) (funct3 : BitVec 3) (i : Nat) :
    (bWord imm rs2 rs1 funct3).getLsbD i =
      if i < 7 then (0x63#7).getLsbD i
      else if i < 8 then (imm.extractLsb' 11 1).getLsbD (i - 7)
      else if i < 12 then (imm.extractLsb' 1 4).getLsbD (i - 8)
      else if i < 15 then funct3.getLsbD (i - 12)
      else if i < 20 then rs1.getLsbD (i - 15)
      else if i < 25 then rs2.getLsbD (i - 20)
      else if i < 31 then (imm.extractLsb' 5 6).getLsbD (i - 25)
      else (imm.extractLsb' 12 1).getLsbD (i - 31) := by
  change (imm.extractLsb' 12 1 ++ imm.extractLsb' 5 6 ++ rs2 ++ rs1 ++ funct3 ++ imm.extractLsb' 1 4 ++ imm.extractLsb' 11 1 ++ 0x63#7 : BitVec (1 + 6 + 5 + 5 + 3 + 4 + 1 + 7)).getLsbD i = _
  simp only [BitVec.getLsbD_append]
  grind

/-- The bits of jWord. -/
theorem jWord_getLsbD (imm : BitVec 21) (rd : RegIx) (i : Nat) :
    (jWord imm rd).getLsbD i =
      if i < 7 then (0x6f#7).getLsbD i
      else if i < 12 then rd.getLsbD (i - 7)
      else if i < 20 then (imm.extractLsb' 12 8).getLsbD (i - 12)
      else if i < 21 then (imm.extractLsb' 11 1).getLsbD (i - 20)
      else if i < 31 then (imm.extractLsb' 1 10).getLsbD (i - 21)
      else (imm.extractLsb' 20 1).getLsbD (i - 31) := by
  change (imm.extractLsb' 20 1 ++ imm.extractLsb' 1 10 ++ imm.extractLsb' 11 1 ++ imm.extractLsb' 12 8 ++ rd ++ 0x6f#7 : BitVec (1 + 10 + 1 + 8 + 5 + 7)).getLsbD i = _
  simp only [BitVec.getLsbD_append]
  grind

@[simp] theorem opcodeOf_rWord (funct7 : BitVec 7) (rs2 rs1 : RegIx) (funct3 : BitVec 3) (rd : RegIx) (opcode : BitVec 7) :
    opcodeOf (rWord funct7 rs2 rs1 funct3 rd opcode) = opcode := by
  apply BitVec.eq_of_getLsbD_eq
  intro i hi
  simp only [opcodeOf, BitVec.getLsbD_extractLsb', rWord_getLsbD]
  grind

@[simp] theorem rdOf_rWord (funct7 : BitVec 7) (rs2 rs1 : RegIx) (funct3 : BitVec 3) (rd : RegIx) (opcode : BitVec 7) :
    rdOf (rWord funct7 rs2 rs1 funct3 rd opcode) = rd := by
  apply BitVec.eq_of_getLsbD_eq
  intro i hi
  simp only [rdOf, BitVec.getLsbD_extractLsb', rWord_getLsbD]
  grind

@[simp] theorem funct3Of_rWord (funct7 : BitVec 7) (rs2 rs1 : RegIx) (funct3 : BitVec 3) (rd : RegIx) (opcode : BitVec 7) :
    funct3Of (rWord funct7 rs2 rs1 funct3 rd opcode) = funct3 := by
  apply BitVec.eq_of_getLsbD_eq
  intro i hi
  simp only [funct3Of, BitVec.getLsbD_extractLsb', rWord_getLsbD]
  grind

@[simp] theorem rs1Of_rWord (funct7 : BitVec 7) (rs2 rs1 : RegIx) (funct3 : BitVec 3) (rd : RegIx) (opcode : BitVec 7) :
    rs1Of (rWord funct7 rs2 rs1 funct3 rd opcode) = rs1 := by
  apply BitVec.eq_of_getLsbD_eq
  intro i hi
  simp only [rs1Of, BitVec.getLsbD_extractLsb', rWord_getLsbD]
  grind

@[simp] theorem rs2Of_rWord (funct7 : BitVec 7) (rs2 rs1 : RegIx) (funct3 : BitVec 3) (rd : RegIx) (opcode : BitVec 7) :
    rs2Of (rWord funct7 rs2 rs1 funct3 rd opcode) = rs2 := by
  apply BitVec.eq_of_getLsbD_eq
  intro i hi
  simp only [rs2Of, BitVec.getLsbD_extractLsb', rWord_getLsbD]
  grind

@[simp] theorem funct7Of_rWord (funct7 : BitVec 7) (rs2 rs1 : RegIx) (funct3 : BitVec 3) (rd : RegIx) (opcode : BitVec 7) :
    funct7Of (rWord funct7 rs2 rs1 funct3 rd opcode) = funct7 := by
  apply BitVec.eq_of_getLsbD_eq
  intro i hi
  simp only [funct7Of, BitVec.getLsbD_extractLsb', rWord_getLsbD]
  grind

@[simp] theorem shamt5Of_rWord (funct7 : BitVec 7) (rs2 rs1 : RegIx) (funct3 : BitVec 3) (rd : RegIx) (opcode : BitVec 7) :
    shamt5Of (rWord funct7 rs2 rs1 funct3 rd opcode) = rs2 := by
  apply BitVec.eq_of_getLsbD_eq
  intro i hi
  simp only [shamt5Of, BitVec.getLsbD_extractLsb', rWord_getLsbD]
  grind

@[simp] theorem zimmOf_rWord (funct7 : BitVec 7) (rs2 rs1 : RegIx) (funct3 : BitVec 3) (rd : RegIx) (opcode : BitVec 7) :
    zimmOf (rWord funct7 rs2 rs1 funct3 rd opcode) = rs1 := by
  apply BitVec.eq_of_getLsbD_eq
  intro i hi
  simp only [zimmOf, BitVec.getLsbD_extractLsb', rWord_getLsbD]
  grind

@[simp] theorem opcodeOf_iWord (imm : BitVec 12) (rs1 : RegIx) (funct3 : BitVec 3) (rd : RegIx) (opcode : BitVec 7) :
    opcodeOf (iWord imm rs1 funct3 rd opcode) = opcode := by
  apply BitVec.eq_of_getLsbD_eq
  intro i hi
  simp only [opcodeOf, BitVec.getLsbD_extractLsb', iWord_getLsbD]
  grind

@[simp] theorem rdOf_iWord (imm : BitVec 12) (rs1 : RegIx) (funct3 : BitVec 3) (rd : RegIx) (opcode : BitVec 7) :
    rdOf (iWord imm rs1 funct3 rd opcode) = rd := by
  apply BitVec.eq_of_getLsbD_eq
  intro i hi
  simp only [rdOf, BitVec.getLsbD_extractLsb', iWord_getLsbD]
  grind

@[simp] theorem funct3Of_iWord (imm : BitVec 12) (rs1 : RegIx) (funct3 : BitVec 3) (rd : RegIx) (opcode : BitVec 7) :
    funct3Of (iWord imm rs1 funct3 rd opcode) = funct3 := by
  apply BitVec.eq_of_getLsbD_eq
  intro i hi
  simp only [funct3Of, BitVec.getLsbD_extractLsb', iWord_getLsbD]
  grind

@[simp] theorem rs1Of_iWord (imm : BitVec 12) (rs1 : RegIx) (funct3 : BitVec 3) (rd : RegIx) (opcode : BitVec 7) :
    rs1Of (iWord imm rs1 funct3 rd opcode) = rs1 := by
  apply BitVec.eq_of_getLsbD_eq
  intro i hi
  simp only [rs1Of, BitVec.getLsbD_extractLsb', iWord_getLsbD]
  grind

@[simp] theorem csrOf_iWord (imm : BitVec 12) (rs1 : RegIx) (funct3 : BitVec 3) (rd : RegIx) (opcode : BitVec 7) :
    csrOf (iWord imm rs1 funct3 rd opcode) = imm := by
  apply BitVec.eq_of_getLsbD_eq
  intro i hi
  simp only [csrOf, BitVec.getLsbD_extractLsb', iWord_getLsbD]
  grind

@[simp] theorem zimmOf_iWord (imm : BitVec 12) (rs1 : RegIx) (funct3 : BitVec 3) (rd : RegIx) (opcode : BitVec 7) :
    zimmOf (iWord imm rs1 funct3 rd opcode) = rs1 := by
  apply BitVec.eq_of_getLsbD_eq
  intro i hi
  simp only [zimmOf, BitVec.getLsbD_extractLsb', iWord_getLsbD]
  grind

@[simp] theorem immIOf_iWord (imm : BitVec 12) (rs1 : RegIx) (funct3 : BitVec 3) (rd : RegIx) (opcode : BitVec 7) :
    immIOf (iWord imm rs1 funct3 rd opcode) = imm := by
  apply BitVec.eq_of_getLsbD_eq
  intro i hi
  simp only [immIOf, BitVec.getLsbD_extractLsb', iWord_getLsbD]
  grind

@[simp] theorem opcodeOf_shift64Word (funct6 : BitVec 6) (shamt : BitVec 6) (rs1 : RegIx) (funct3 : BitVec 3) (rd : RegIx) :
    opcodeOf (shift64Word funct6 shamt rs1 funct3 rd) = 0x13#7 := by
  apply BitVec.eq_of_getLsbD_eq
  intro i hi
  simp only [opcodeOf, BitVec.getLsbD_extractLsb', shift64Word_getLsbD]
  grind

@[simp] theorem rdOf_shift64Word (funct6 : BitVec 6) (shamt : BitVec 6) (rs1 : RegIx) (funct3 : BitVec 3) (rd : RegIx) :
    rdOf (shift64Word funct6 shamt rs1 funct3 rd) = rd := by
  apply BitVec.eq_of_getLsbD_eq
  intro i hi
  simp only [rdOf, BitVec.getLsbD_extractLsb', shift64Word_getLsbD]
  grind

@[simp] theorem funct3Of_shift64Word (funct6 : BitVec 6) (shamt : BitVec 6) (rs1 : RegIx) (funct3 : BitVec 3) (rd : RegIx) :
    funct3Of (shift64Word funct6 shamt rs1 funct3 rd) = funct3 := by
  apply BitVec.eq_of_getLsbD_eq
  intro i hi
  simp only [funct3Of, BitVec.getLsbD_extractLsb', shift64Word_getLsbD]
  grind

@[simp] theorem rs1Of_shift64Word (funct6 : BitVec 6) (shamt : BitVec 6) (rs1 : RegIx) (funct3 : BitVec 3) (rd : RegIx) :
    rs1Of (shift64Word funct6 shamt rs1 funct3 rd) = rs1 := by
  apply BitVec.eq_of_getLsbD_eq
  intro i hi
  simp only [rs1Of, BitVec.getLsbD_extractLsb', shift64Word_getLsbD]
  grind

@[simp] theorem shamt6Of_shift64Word (funct6 : BitVec 6) (shamt : BitVec 6) (rs1 : RegIx) (funct3 : BitVec 3) (rd : RegIx) :
    shamt6Of (shift64Word funct6 shamt rs1 funct3 rd) = shamt := by
  apply BitVec.eq_of_getLsbD_eq
  intro i hi
  simp only [shamt6Of, BitVec.getLsbD_extractLsb', shift64Word_getLsbD]
  grind

@[simp] theorem funct6Of_shift64Word (funct6 : BitVec 6) (shamt : BitVec 6) (rs1 : RegIx) (funct3 : BitVec 3) (rd : RegIx) :
    funct6Of (shift64Word funct6 shamt rs1 funct3 rd) = funct6 := by
  apply BitVec.eq_of_getLsbD_eq
  intro i hi
  simp only [funct6Of, BitVec.getLsbD_extractLsb', shift64Word_getLsbD]
  grind

@[simp] theorem zimmOf_shift64Word (funct6 : BitVec 6) (shamt : BitVec 6) (rs1 : RegIx) (funct3 : BitVec 3) (rd : RegIx) :
    zimmOf (shift64Word funct6 shamt rs1 funct3 rd) = rs1 := by
  apply BitVec.eq_of_getLsbD_eq
  intro i hi
  simp only [zimmOf, BitVec.getLsbD_extractLsb', shift64Word_getLsbD]
  grind

@[simp] theorem opcodeOf_shift32Word (funct7 : BitVec 7) (shamt : BitVec 5) (rs1 : RegIx) (funct3 : BitVec 3) (rd : RegIx) :
    opcodeOf (shift32Word funct7 shamt rs1 funct3 rd) = 0x1b#7 := by
  apply BitVec.eq_of_getLsbD_eq
  intro i hi
  simp only [opcodeOf, BitVec.getLsbD_extractLsb', shift32Word_getLsbD]
  grind

@[simp] theorem rdOf_shift32Word (funct7 : BitVec 7) (shamt : BitVec 5) (rs1 : RegIx) (funct3 : BitVec 3) (rd : RegIx) :
    rdOf (shift32Word funct7 shamt rs1 funct3 rd) = rd := by
  apply BitVec.eq_of_getLsbD_eq
  intro i hi
  simp only [rdOf, BitVec.getLsbD_extractLsb', shift32Word_getLsbD]
  grind

@[simp] theorem funct3Of_shift32Word (funct7 : BitVec 7) (shamt : BitVec 5) (rs1 : RegIx) (funct3 : BitVec 3) (rd : RegIx) :
    funct3Of (shift32Word funct7 shamt rs1 funct3 rd) = funct3 := by
  apply BitVec.eq_of_getLsbD_eq
  intro i hi
  simp only [funct3Of, BitVec.getLsbD_extractLsb', shift32Word_getLsbD]
  grind

@[simp] theorem rs1Of_shift32Word (funct7 : BitVec 7) (shamt : BitVec 5) (rs1 : RegIx) (funct3 : BitVec 3) (rd : RegIx) :
    rs1Of (shift32Word funct7 shamt rs1 funct3 rd) = rs1 := by
  apply BitVec.eq_of_getLsbD_eq
  intro i hi
  simp only [rs1Of, BitVec.getLsbD_extractLsb', shift32Word_getLsbD]
  grind

@[simp] theorem rs2Of_shift32Word (funct7 : BitVec 7) (shamt : BitVec 5) (rs1 : RegIx) (funct3 : BitVec 3) (rd : RegIx) :
    rs2Of (shift32Word funct7 shamt rs1 funct3 rd) = shamt := by
  apply BitVec.eq_of_getLsbD_eq
  intro i hi
  simp only [rs2Of, BitVec.getLsbD_extractLsb', shift32Word_getLsbD]
  grind

@[simp] theorem funct7Of_shift32Word (funct7 : BitVec 7) (shamt : BitVec 5) (rs1 : RegIx) (funct3 : BitVec 3) (rd : RegIx) :
    funct7Of (shift32Word funct7 shamt rs1 funct3 rd) = funct7 := by
  apply BitVec.eq_of_getLsbD_eq
  intro i hi
  simp only [funct7Of, BitVec.getLsbD_extractLsb', shift32Word_getLsbD]
  grind

@[simp] theorem shamt5Of_shift32Word (funct7 : BitVec 7) (shamt : BitVec 5) (rs1 : RegIx) (funct3 : BitVec 3) (rd : RegIx) :
    shamt5Of (shift32Word funct7 shamt rs1 funct3 rd) = shamt := by
  apply BitVec.eq_of_getLsbD_eq
  intro i hi
  simp only [shamt5Of, BitVec.getLsbD_extractLsb', shift32Word_getLsbD]
  grind

@[simp] theorem zimmOf_shift32Word (funct7 : BitVec 7) (shamt : BitVec 5) (rs1 : RegIx) (funct3 : BitVec 3) (rd : RegIx) :
    zimmOf (shift32Word funct7 shamt rs1 funct3 rd) = rs1 := by
  apply BitVec.eq_of_getLsbD_eq
  intro i hi
  simp only [zimmOf, BitVec.getLsbD_extractLsb', shift32Word_getLsbD]
  grind

@[simp] theorem opcodeOf_amoWord (funct5 : BitVec 5) (aq rl : Bool) (rs2 rs1 : RegIx) (funct3 : BitVec 3) (rd : RegIx) :
    opcodeOf (amoWord funct5 aq rl rs2 rs1 funct3 rd) = 0x2f#7 := by
  apply BitVec.eq_of_getLsbD_eq
  intro i hi
  simp only [opcodeOf, BitVec.getLsbD_extractLsb', amoWord_getLsbD]
  grind

@[simp] theorem rdOf_amoWord (funct5 : BitVec 5) (aq rl : Bool) (rs2 rs1 : RegIx) (funct3 : BitVec 3) (rd : RegIx) :
    rdOf (amoWord funct5 aq rl rs2 rs1 funct3 rd) = rd := by
  apply BitVec.eq_of_getLsbD_eq
  intro i hi
  simp only [rdOf, BitVec.getLsbD_extractLsb', amoWord_getLsbD]
  grind

@[simp] theorem funct3Of_amoWord (funct5 : BitVec 5) (aq rl : Bool) (rs2 rs1 : RegIx) (funct3 : BitVec 3) (rd : RegIx) :
    funct3Of (amoWord funct5 aq rl rs2 rs1 funct3 rd) = funct3 := by
  apply BitVec.eq_of_getLsbD_eq
  intro i hi
  simp only [funct3Of, BitVec.getLsbD_extractLsb', amoWord_getLsbD]
  grind

@[simp] theorem rs1Of_amoWord (funct5 : BitVec 5) (aq rl : Bool) (rs2 rs1 : RegIx) (funct3 : BitVec 3) (rd : RegIx) :
    rs1Of (amoWord funct5 aq rl rs2 rs1 funct3 rd) = rs1 := by
  apply BitVec.eq_of_getLsbD_eq
  intro i hi
  simp only [rs1Of, BitVec.getLsbD_extractLsb', amoWord_getLsbD]
  grind

@[simp] theorem rs2Of_amoWord (funct5 : BitVec 5) (aq rl : Bool) (rs2 rs1 : RegIx) (funct3 : BitVec 3) (rd : RegIx) :
    rs2Of (amoWord funct5 aq rl rs2 rs1 funct3 rd) = rs2 := by
  apply BitVec.eq_of_getLsbD_eq
  intro i hi
  simp only [rs2Of, BitVec.getLsbD_extractLsb', amoWord_getLsbD]
  grind

@[simp] theorem shamt5Of_amoWord (funct5 : BitVec 5) (aq rl : Bool) (rs2 rs1 : RegIx) (funct3 : BitVec 3) (rd : RegIx) :
    shamt5Of (amoWord funct5 aq rl rs2 rs1 funct3 rd) = rs2 := by
  apply BitVec.eq_of_getLsbD_eq
  intro i hi
  simp only [shamt5Of, BitVec.getLsbD_extractLsb', amoWord_getLsbD]
  grind

@[simp] theorem funct5Of_amoWord (funct5 : BitVec 5) (aq rl : Bool) (rs2 rs1 : RegIx) (funct3 : BitVec 3) (rd : RegIx) :
    funct5Of (amoWord funct5 aq rl rs2 rs1 funct3 rd) = funct5 := by
  apply BitVec.eq_of_getLsbD_eq
  intro i hi
  simp only [funct5Of, BitVec.getLsbD_extractLsb', amoWord_getLsbD]
  grind

@[simp] theorem zimmOf_amoWord (funct5 : BitVec 5) (aq rl : Bool) (rs2 rs1 : RegIx) (funct3 : BitVec 3) (rd : RegIx) :
    zimmOf (amoWord funct5 aq rl rs2 rs1 funct3 rd) = rs1 := by
  apply BitVec.eq_of_getLsbD_eq
  intro i hi
  simp only [zimmOf, BitVec.getLsbD_extractLsb', amoWord_getLsbD]
  grind

@[simp] theorem aqOf_amoWord (funct5 : BitVec 5) (aq rl : Bool) (rs2 rs1 : RegIx) (funct3 : BitVec 3) (rd : RegIx) :
    aqOf (amoWord funct5 aq rl rs2 rs1 funct3 rd) = aq := by
  rw [aqOf, amoWord_getLsbD]
  simp

@[simp] theorem rlOf_amoWord (funct5 : BitVec 5) (aq rl : Bool) (rs2 rs1 : RegIx) (funct3 : BitVec 3) (rd : RegIx) :
    rlOf (amoWord funct5 aq rl rs2 rs1 funct3 rd) = rl := by
  rw [rlOf, amoWord_getLsbD]
  simp

@[simp] theorem opcodeOf_uWord (imm20 : BitVec 20) (rd : RegIx) (opcode : BitVec 7) :
    opcodeOf (uWord imm20 rd opcode) = opcode := by
  apply BitVec.eq_of_getLsbD_eq
  intro i hi
  simp only [opcodeOf, BitVec.getLsbD_extractLsb', uWord_getLsbD]
  grind

@[simp] theorem rdOf_uWord (imm20 : BitVec 20) (rd : RegIx) (opcode : BitVec 7) :
    rdOf (uWord imm20 rd opcode) = rd := by
  apply BitVec.eq_of_getLsbD_eq
  intro i hi
  simp only [rdOf, BitVec.getLsbD_extractLsb', uWord_getLsbD]
  grind

@[simp] theorem imm20Of_uWord (imm20 : BitVec 20) (rd : RegIx) (opcode : BitVec 7) :
    imm20Of (uWord imm20 rd opcode) = imm20 := by
  apply BitVec.eq_of_getLsbD_eq
  intro i hi
  simp only [imm20Of, BitVec.getLsbD_extractLsb', uWord_getLsbD]
  grind

@[simp] theorem opcodeOf_sWord (imm : BitVec 12) (rs2 rs1 : RegIx) (funct3 : BitVec 3) :
    opcodeOf (sWord imm rs2 rs1 funct3) = 0x23#7 := by
  apply BitVec.eq_of_getLsbD_eq
  intro i hi
  simp only [opcodeOf, BitVec.getLsbD_extractLsb', sWord_getLsbD]
  grind

@[simp] theorem funct3Of_sWord (imm : BitVec 12) (rs2 rs1 : RegIx) (funct3 : BitVec 3) :
    funct3Of (sWord imm rs2 rs1 funct3) = funct3 := by
  apply BitVec.eq_of_getLsbD_eq
  intro i hi
  simp only [funct3Of, BitVec.getLsbD_extractLsb', sWord_getLsbD]
  grind

@[simp] theorem rs1Of_sWord (imm : BitVec 12) (rs2 rs1 : RegIx) (funct3 : BitVec 3) :
    rs1Of (sWord imm rs2 rs1 funct3) = rs1 := by
  apply BitVec.eq_of_getLsbD_eq
  intro i hi
  simp only [rs1Of, BitVec.getLsbD_extractLsb', sWord_getLsbD]
  grind

@[simp] theorem rs2Of_sWord (imm : BitVec 12) (rs2 rs1 : RegIx) (funct3 : BitVec 3) :
    rs2Of (sWord imm rs2 rs1 funct3) = rs2 := by
  apply BitVec.eq_of_getLsbD_eq
  intro i hi
  simp only [rs2Of, BitVec.getLsbD_extractLsb', sWord_getLsbD]
  grind

@[simp] theorem shamt5Of_sWord (imm : BitVec 12) (rs2 rs1 : RegIx) (funct3 : BitVec 3) :
    shamt5Of (sWord imm rs2 rs1 funct3) = rs2 := by
  apply BitVec.eq_of_getLsbD_eq
  intro i hi
  simp only [shamt5Of, BitVec.getLsbD_extractLsb', sWord_getLsbD]
  grind

@[simp] theorem zimmOf_sWord (imm : BitVec 12) (rs2 rs1 : RegIx) (funct3 : BitVec 3) :
    zimmOf (sWord imm rs2 rs1 funct3) = rs1 := by
  apply BitVec.eq_of_getLsbD_eq
  intro i hi
  simp only [zimmOf, BitVec.getLsbD_extractLsb', sWord_getLsbD]
  grind

@[simp] theorem opcodeOf_bWord (imm : BitVec 13) (rs2 rs1 : RegIx) (funct3 : BitVec 3) :
    opcodeOf (bWord imm rs2 rs1 funct3) = 0x63#7 := by
  apply BitVec.eq_of_getLsbD_eq
  intro i hi
  simp only [opcodeOf, BitVec.getLsbD_extractLsb', bWord_getLsbD]
  grind

@[simp] theorem funct3Of_bWord (imm : BitVec 13) (rs2 rs1 : RegIx) (funct3 : BitVec 3) :
    funct3Of (bWord imm rs2 rs1 funct3) = funct3 := by
  apply BitVec.eq_of_getLsbD_eq
  intro i hi
  simp only [funct3Of, BitVec.getLsbD_extractLsb', bWord_getLsbD]
  grind

@[simp] theorem rs1Of_bWord (imm : BitVec 13) (rs2 rs1 : RegIx) (funct3 : BitVec 3) :
    rs1Of (bWord imm rs2 rs1 funct3) = rs1 := by
  apply BitVec.eq_of_getLsbD_eq
  intro i hi
  simp only [rs1Of, BitVec.getLsbD_extractLsb', bWord_getLsbD]
  grind

@[simp] theorem rs2Of_bWord (imm : BitVec 13) (rs2 rs1 : RegIx) (funct3 : BitVec 3) :
    rs2Of (bWord imm rs2 rs1 funct3) = rs2 := by
  apply BitVec.eq_of_getLsbD_eq
  intro i hi
  simp only [rs2Of, BitVec.getLsbD_extractLsb', bWord_getLsbD]
  grind

@[simp] theorem shamt5Of_bWord (imm : BitVec 13) (rs2 rs1 : RegIx) (funct3 : BitVec 3) :
    shamt5Of (bWord imm rs2 rs1 funct3) = rs2 := by
  apply BitVec.eq_of_getLsbD_eq
  intro i hi
  simp only [shamt5Of, BitVec.getLsbD_extractLsb', bWord_getLsbD]
  grind

@[simp] theorem zimmOf_bWord (imm : BitVec 13) (rs2 rs1 : RegIx) (funct3 : BitVec 3) :
    zimmOf (bWord imm rs2 rs1 funct3) = rs1 := by
  apply BitVec.eq_of_getLsbD_eq
  intro i hi
  simp only [zimmOf, BitVec.getLsbD_extractLsb', bWord_getLsbD]
  grind

@[simp] theorem opcodeOf_jWord (imm : BitVec 21) (rd : RegIx) :
    opcodeOf (jWord imm rd) = 0x6f#7 := by
  apply BitVec.eq_of_getLsbD_eq
  intro i hi
  simp only [opcodeOf, BitVec.getLsbD_extractLsb', jWord_getLsbD]
  grind

@[simp] theorem rdOf_jWord (imm : BitVec 21) (rd : RegIx) :
    rdOf (jWord imm rd) = rd := by
  apply BitVec.eq_of_getLsbD_eq
  intro i hi
  simp only [rdOf, BitVec.getLsbD_extractLsb', jWord_getLsbD]
  grind

/-! ### The split immediates -/

/-- The bits of imm_S as the decoder assembles it. -/
theorem immSOf_getLsbD (w : InstWord) (i : Nat) :
    (immSOf w).getLsbD i = if i < 5 then w.getLsbD (i + 7) else if i < 12 then w.getLsbD (i - 5 + 25) else false := by
  change (w.extractLsb' 25 7 ++ w.extractLsb' 7 5 : BitVec (7 + 5)).getLsbD i = _
  simp only [BitVec.getLsbD_append, BitVec.getLsbD_extractLsb']
  grind

/-- The bits of imm_B as the decoder assembles it. -/
theorem immBOf_getLsbD (w : InstWord) (i : Nat) :
    (immBOf w).getLsbD i =
      if i < 1 then false else if i < 5 then w.getLsbD (i - 1 + 8) else if i < 11 then w.getLsbD (i - 5 + 25)
      else if i < 12 then w.getLsbD 7 else if i < 13 then w.getLsbD 31 else false := by
  change (w.extractLsb' 31 1 ++ w.extractLsb' 7 1 ++ w.extractLsb' 25 6 ++ w.extractLsb' 8 4 ++ 0#1
    : BitVec (1 + 1 + 6 + 4 + 1)).getLsbD i = _
  simp only [BitVec.getLsbD_append, BitVec.getLsbD_extractLsb']
  grind

/-- The bits of imm_J as the decoder assembles it. -/
theorem immJOf_getLsbD (w : InstWord) (i : Nat) :
    (immJOf w).getLsbD i =
      if i < 1 then false else if i < 11 then w.getLsbD (i - 1 + 21) else if i < 12 then w.getLsbD 20
      else if i < 20 then w.getLsbD (i - 12 + 12) else if i < 21 then w.getLsbD 31 else false := by
  change (w.extractLsb' 31 1 ++ w.extractLsb' 12 8 ++ w.extractLsb' 20 1 ++ w.extractLsb' 21 10 ++ 0#1
    : BitVec (1 + 8 + 1 + 10 + 1)).getLsbD i = _
  simp only [BitVec.getLsbD_append, BitVec.getLsbD_extractLsb']
  grind

@[simp] theorem immSOf_sWord (imm : BitVec 12) (rs2 rs1 : RegIx) (funct3 : BitVec 3) :
    immSOf (sWord imm rs2 rs1 funct3) = imm := by
  apply BitVec.eq_of_getLsbD_eq
  intro i hi
  simp only [immSOf_getLsbD, sWord_getLsbD, BitVec.getLsbD_extractLsb']
  grind

/-- An even branch offset survives the encoding. -/
theorem immBOf_bWord (imm : BitVec 13) (rs2 rs1 : RegIx) (funct3 : BitVec 3) (h : evenOffset imm = true) :
    immBOf (bWord imm rs2 rs1 funct3) = imm := by
  have h0 : imm.getLsbD 0 = false := by simpa [evenOffset] using h
  apply BitVec.eq_of_getLsbD_eq
  intro i hi
  simp only [immBOf_getLsbD, bWord_getLsbD, BitVec.getLsbD_extractLsb']
  grind

/-- An even jump offset survives the encoding. -/
theorem immJOf_jWord (imm : BitVec 21) (rd : RegIx) (h : evenOffset imm = true) : immJOf (jWord imm rd) = imm := by
  have h0 : imm.getLsbD 0 = false := by simpa [evenOffset] using h
  apply BitVec.eq_of_getLsbD_eq
  intro i hi
  simp only [immJOf_getLsbD, jWord_getLsbD, BitVec.getLsbD_extractLsb']
  grind

/-- A decoded branch offset is even (30_encoding.md R73). -/
@[simp] theorem evenOffset_immBOf (w : InstWord) : evenOffset (immBOf w) = true := by
  rw [evenOffset, immBOf_getLsbD]
  rfl

/-- A decoded jump offset is even (30_encoding.md R75). -/
@[simp] theorem evenOffset_immJOf (w : InstWord) : evenOffset (immJOf w) = true := by
  rw [evenOffset, immJOf_getLsbD]
  rfl

end Sys2Proof
end

