-- ==== Sys2Proof/Laws/State.lean ====
section
/-! SUPPORT. What each update of the state does to each of its fields. -/

namespace Sys2Proof.Machine

@[simp] theorem setPc_cfg (s : State) (t : Word) : (s.setPc t).cfg = s.cfg := rfl
@[simp] theorem setPc_pc (s : State) (t : Word) : (s.setPc t).pc = t := rfl
@[simp] theorem setPc_x (s : State) (t : Word) : (s.setPc t).x = s.x := rfl
@[simp] theorem setPc_f (s : State) (t : Word) : (s.setPc t).f = s.f := rfl
@[simp] theorem setPc_csr (s : State) (t : Word) : (s.setPc t).csr = s.csr := rfl
@[simp] theorem setPc_mode (s : State) (t : Word) : (s.setPc t).mode = s.mode := rfl
@[simp] theorem setPc_mem (s : State) (t : Word) : (s.setPc t).mem = s.mem := rfl
@[simp] theorem setPc_status (s : State) (t : Word) : (s.setPc t).status = s.status := rfl

@[simp] theorem setMode_cfg (s : State) (m : Mode) : (s.setMode m).cfg = s.cfg := rfl
@[simp] theorem setMode_pc (s : State) (m : Mode) : (s.setMode m).pc = s.pc := rfl
@[simp] theorem setMode_x (s : State) (m : Mode) : (s.setMode m).x = s.x := rfl
@[simp] theorem setMode_f (s : State) (m : Mode) : (s.setMode m).f = s.f := rfl
@[simp] theorem setMode_csr (s : State) (m : Mode) : (s.setMode m).csr = s.csr := rfl
@[simp] theorem setMode_mode (s : State) (m : Mode) : (s.setMode m).mode = m := rfl
@[simp] theorem setMode_mem (s : State) (m : Mode) : (s.setMode m).mem = s.mem := rfl
@[simp] theorem setMode_status (s : State) (m : Mode) : (s.setMode m).status = s.status := rfl

@[simp] theorem setStatus_cfg (s : State) (e : EngineStatus) : (s.setStatus e).cfg = s.cfg := rfl
@[simp] theorem setStatus_pc (s : State) (e : EngineStatus) : (s.setStatus e).pc = s.pc := rfl
@[simp] theorem setStatus_x (s : State) (e : EngineStatus) : (s.setStatus e).x = s.x := rfl
@[simp] theorem setStatus_f (s : State) (e : EngineStatus) : (s.setStatus e).f = s.f := rfl
@[simp] theorem setStatus_csr (s : State) (e : EngineStatus) : (s.setStatus e).csr = s.csr := rfl
@[simp] theorem setStatus_mode (s : State) (e : EngineStatus) : (s.setStatus e).mode = s.mode := rfl
@[simp] theorem setStatus_mem (s : State) (e : EngineStatus) : (s.setStatus e).mem = s.mem := rfl
@[simp] theorem setStatus_status (s : State) (e : EngineStatus) : (s.setStatus e).status = e := rfl

@[simp] theorem setMem_cfg (s : State) (m : Memory) : (s.setMem m).cfg = s.cfg := rfl
@[simp] theorem setMem_pc (s : State) (m : Memory) : (s.setMem m).pc = s.pc := rfl
@[simp] theorem setMem_x (s : State) (m : Memory) : (s.setMem m).x = s.x := rfl
@[simp] theorem setMem_f (s : State) (m : Memory) : (s.setMem m).f = s.f := rfl
@[simp] theorem setMem_csr (s : State) (m : Memory) : (s.setMem m).csr = s.csr := rfl
@[simp] theorem setMem_mode (s : State) (m : Memory) : (s.setMem m).mode = s.mode := rfl
@[simp] theorem setMem_mem (s : State) (m : Memory) : (s.setMem m).mem = m := rfl
@[simp] theorem setMem_status (s : State) (m : Memory) : (s.setMem m).status = s.status := rfl

@[simp] theorem preAdvance_cfg (s : State) : (s.preAdvance).cfg = s.cfg := rfl
@[simp] theorem preAdvance_pc (s : State) : (s.preAdvance).pc = s.pc + 4#64 := rfl
@[simp] theorem preAdvance_x (s : State) : (s.preAdvance).x = s.x := rfl
@[simp] theorem preAdvance_f (s : State) : (s.preAdvance).f = s.f := rfl
@[simp] theorem preAdvance_csr (s : State) : (s.preAdvance).csr = s.csr := rfl
@[simp] theorem preAdvance_mode (s : State) : (s.preAdvance).mode = s.mode := rfl
@[simp] theorem preAdvance_mem (s : State) : (s.preAdvance).mem = s.mem := rfl
@[simp] theorem preAdvance_status (s : State) : (s.preAdvance).status = s.status := rfl

@[simp] theorem setCsrSlot_cfg (s : State) (a : CsrAddr) (v : Word) : (s.setCsrSlot a v).cfg = s.cfg := rfl
@[simp] theorem setCsrSlot_pc (s : State) (a : CsrAddr) (v : Word) : (s.setCsrSlot a v).pc = s.pc := rfl
@[simp] theorem setCsrSlot_x (s : State) (a : CsrAddr) (v : Word) : (s.setCsrSlot a v).x = s.x := rfl
@[simp] theorem setCsrSlot_f (s : State) (a : CsrAddr) (v : Word) : (s.setCsrSlot a v).f = s.f := rfl
@[simp] theorem setCsrSlot_csr (s : State) (a : CsrAddr) (v : Word) : (s.setCsrSlot a v).csr = setCell s.csr a.toNat v := rfl
@[simp] theorem setCsrSlot_mode (s : State) (a : CsrAddr) (v : Word) : (s.setCsrSlot a v).mode = s.mode := rfl
@[simp] theorem setCsrSlot_mem (s : State) (a : CsrAddr) (v : Word) : (s.setCsrSlot a v).mem = s.mem := rfl
@[simp] theorem setCsrSlot_status (s : State) (a : CsrAddr) (v : Word) : (s.setCsrSlot a v).status = s.status := rfl

@[simp] theorem writeX_cfg (s : State) (r : RegIx) (v : Word) : (s.writeX r v).cfg = s.cfg := by
  unfold State.writeX; split <;> rfl
@[simp] theorem writeX_pc (s : State) (r : RegIx) (v : Word) : (s.writeX r v).pc = s.pc := by
  unfold State.writeX; split <;> rfl
@[simp] theorem writeX_f (s : State) (r : RegIx) (v : Word) : (s.writeX r v).f = s.f := by
  unfold State.writeX; split <;> rfl
@[simp] theorem writeX_csr (s : State) (r : RegIx) (v : Word) : (s.writeX r v).csr = s.csr := by
  unfold State.writeX; split <;> rfl
@[simp] theorem writeX_mode (s : State) (r : RegIx) (v : Word) : (s.writeX r v).mode = s.mode := by
  unfold State.writeX; split <;> rfl
@[simp] theorem writeX_mem (s : State) (r : RegIx) (v : Word) : (s.writeX r v).mem = s.mem := by
  unfold State.writeX; split <;> rfl
@[simp] theorem writeX_status (s : State) (r : RegIx) (v : Word) : (s.writeX r v).status = s.status := by
  unfold State.writeX; split <;> rfl

@[simp] theorem csrWrite_cfg (s : State) (a : CsrAddr) (v : Word) : (s.csrWrite a v).cfg = s.cfg := by
  unfold State.csrWrite; split <;> rfl
@[simp] theorem csrWrite_pc (s : State) (a : CsrAddr) (v : Word) : (s.csrWrite a v).pc = s.pc := by
  unfold State.csrWrite; split <;> rfl
@[simp] theorem csrWrite_x (s : State) (a : CsrAddr) (v : Word) : (s.csrWrite a v).x = s.x := by
  unfold State.csrWrite; split <;> rfl
@[simp] theorem csrWrite_f (s : State) (a : CsrAddr) (v : Word) : (s.csrWrite a v).f = s.f := by
  unfold State.csrWrite; split <;> rfl
@[simp] theorem csrWrite_mode (s : State) (a : CsrAddr) (v : Word) : (s.csrWrite a v).mode = s.mode := by
  unfold State.csrWrite; split <;> rfl
@[simp] theorem csrWrite_mem (s : State) (a : CsrAddr) (v : Word) : (s.csrWrite a v).mem = s.mem := by
  unfold State.csrWrite; split <;> rfl
@[simp] theorem csrWrite_status (s : State) (a : CsrAddr) (v : Word) : (s.csrWrite a v).status = s.status := by
  unfold State.csrWrite; split <;> rfl

@[simp] theorem trapReturn_cfg (s : State) (target : Word) (m : Mode) (a : CsrAddr) (v : Word) : (s.trapReturn target m a v).cfg = s.cfg := by
  simp [State.trapReturn]
@[simp] theorem trapReturn_pc (s : State) (target : Word) (m : Mode) (a : CsrAddr) (v : Word) : (s.trapReturn target m a v).pc = target := by
  simp [State.trapReturn]
@[simp] theorem trapReturn_x (s : State) (target : Word) (m : Mode) (a : CsrAddr) (v : Word) : (s.trapReturn target m a v).x = s.x := by
  simp [State.trapReturn]
@[simp] theorem trapReturn_f (s : State) (target : Word) (m : Mode) (a : CsrAddr) (v : Word) : (s.trapReturn target m a v).f = s.f := by
  simp [State.trapReturn]
@[simp] theorem trapReturn_mode (s : State) (target : Word) (m : Mode) (a : CsrAddr) (v : Word) : (s.trapReturn target m a v).mode = m := by
  simp [State.trapReturn]
@[simp] theorem trapReturn_mem (s : State) (target : Word) (m : Mode) (a : CsrAddr) (v : Word) : (s.trapReturn target m a v).mem = s.mem := by
  simp [State.trapReturn]
@[simp] theorem trapReturn_status (s : State) (target : Word) (m : Mode) (a : CsrAddr) (v : Word) : (s.trapReturn target m a v).status = s.status := by
  simp [State.trapReturn]

/-! ### Reads that an update does not touch -/

@[simp] theorem readOf_setPc_readX (s : State) (t : Word) (q : RegIx) : (s.setPc t).readX q = s.readX q := by
  simp [State.readX]
@[simp] theorem readOf_setPc_csrSlot (s : State) (t : Word) (b : CsrAddr) : (s.setPc t).csrSlot b = s.csrSlot b := by
  simp [State.csrSlot]
@[simp] theorem readOf_setPc_csrRead (s : State) (t : Word) (b : CsrAddr) : (s.setPc t).csrRead b = s.csrRead b := by
  simp [State.csrRead, State.csrSlot]
@[simp] theorem readOf_setPc_ramByte (s : State) (t : Word) (o : Nat) : (s.setPc t).ramByte o = s.ramByte o := by
  simp [State.ramByte]
@[simp] theorem readOf_setMode_readX (s : State) (m : Mode) (q : RegIx) : (s.setMode m).readX q = s.readX q := by
  simp [State.readX]
@[simp] theorem readOf_setMode_csrSlot (s : State) (m : Mode) (b : CsrAddr) : (s.setMode m).csrSlot b = s.csrSlot b := by
  simp [State.csrSlot]
@[simp] theorem readOf_setMode_csrRead (s : State) (m : Mode) (b : CsrAddr) : (s.setMode m).csrRead b = s.csrRead b := by
  simp [State.csrRead, State.csrSlot]
@[simp] theorem readOf_setMode_ramByte (s : State) (m : Mode) (o : Nat) : (s.setMode m).ramByte o = s.ramByte o := by
  simp [State.ramByte]
@[simp] theorem readOf_setStatus_readX (s : State) (e : EngineStatus) (q : RegIx) : (s.setStatus e).readX q = s.readX q := by
  simp [State.readX]
@[simp] theorem readOf_setStatus_csrSlot (s : State) (e : EngineStatus) (b : CsrAddr) : (s.setStatus e).csrSlot b = s.csrSlot b := by
  simp [State.csrSlot]
@[simp] theorem readOf_setStatus_csrRead (s : State) (e : EngineStatus) (b : CsrAddr) : (s.setStatus e).csrRead b = s.csrRead b := by
  simp [State.csrRead, State.csrSlot]
@[simp] theorem readOf_setStatus_ramByte (s : State) (e : EngineStatus) (o : Nat) : (s.setStatus e).ramByte o = s.ramByte o := by
  simp [State.ramByte]
@[simp] theorem readOf_setMem_readX (s : State) (m : Memory) (q : RegIx) : (s.setMem m).readX q = s.readX q := by
  simp [State.readX]
@[simp] theorem readOf_setMem_csrSlot (s : State) (m : Memory) (b : CsrAddr) : (s.setMem m).csrSlot b = s.csrSlot b := by
  simp [State.csrSlot]
@[simp] theorem readOf_setMem_csrRead (s : State) (m : Memory) (b : CsrAddr) : (s.setMem m).csrRead b = s.csrRead b := by
  simp [State.csrRead, State.csrSlot]
@[simp] theorem readOf_preAdvance_readX (s : State) (q : RegIx) : (s.preAdvance).readX q = s.readX q := by
  simp [State.readX]
@[simp] theorem readOf_preAdvance_csrSlot (s : State) (b : CsrAddr) : (s.preAdvance).csrSlot b = s.csrSlot b := by
  simp [State.csrSlot]
@[simp] theorem readOf_preAdvance_csrRead (s : State) (b : CsrAddr) : (s.preAdvance).csrRead b = s.csrRead b := by
  simp [State.csrRead, State.csrSlot]
@[simp] theorem readOf_preAdvance_ramByte (s : State) (o : Nat) : (s.preAdvance).ramByte o = s.ramByte o := by
  simp [State.ramByte]
@[simp] theorem readOf_setCsrSlot_readX (s : State) (a : CsrAddr) (v : Word) (q : RegIx) : (s.setCsrSlot a v).readX q = s.readX q := by
  simp [State.readX]
@[simp] theorem readOf_setCsrSlot_ramByte (s : State) (a : CsrAddr) (v : Word) (o : Nat) : (s.setCsrSlot a v).ramByte o = s.ramByte o := by
  simp [State.ramByte]
@[simp] theorem readOf_writeX_csrSlot (s : State) (r : RegIx) (v : Word) (b : CsrAddr) : (s.writeX r v).csrSlot b = s.csrSlot b := by
  simp [State.csrSlot]
@[simp] theorem readOf_writeX_csrRead (s : State) (r : RegIx) (v : Word) (b : CsrAddr) : (s.writeX r v).csrRead b = s.csrRead b := by
  simp [State.csrRead, State.csrSlot]
@[simp] theorem readOf_writeX_ramByte (s : State) (r : RegIx) (v : Word) (o : Nat) : (s.writeX r v).ramByte o = s.ramByte o := by
  simp [State.ramByte]
@[simp] theorem readOf_csrWrite_readX (s : State) (a : CsrAddr) (v : Word) (q : RegIx) : (s.csrWrite a v).readX q = s.readX q := by
  simp [State.readX]
@[simp] theorem readOf_csrWrite_ramByte (s : State) (a : CsrAddr) (v : Word) (o : Nat) : (s.csrWrite a v).ramByte o = s.ramByte o := by
  simp [State.ramByte]

@[simp] theorem setMem_ramByte (s : State) (m : Memory) (o : Nat) : (s.setMem m).ramByte o = getCell m o := rfl

/-- A register write seen by a register read (10_state.md R22, R23). -/
theorem readX_writeX (s : State) (r q : RegIx) (v : Word) :
    (s.writeX r v).readX q = if q = 0#5 then 0#64 else if q = r then v else s.readX q := by
  unfold State.writeX State.readX
  by_cases hq : q = 0#5
  · simp [hq]
  · by_cases hr : r = 0#5
    · subst hr
      simp [hq]
    · by_cases h : q = r
      · subst h
        simp [hq]
      · have hne : r.toNat ≠ q.toNat := fun e => h (BitVec.eq_of_toNat_eq e.symm)
        simp [hq, hr, h, Vector.getElem_set_ne, hne]

@[simp] theorem readX_zero (s : State) : s.readX 0#5 = 0#64 := rfl

end Sys2Proof.Machine
end

