-- ==== Sys2Proof/Laws/Memory.lean ====
section
/-! SUPPORT. The laws of bytes, of runs of bytes in Memory, and of the Bus (20_memory.md R48 to R54). -/

namespace Sys2Proof.Machine

/-! ### Bytes of a value -/

@[simp] theorem leBytes_length (n : Nat) (v : Word) : (leBytes n v).length = n := by
  induction n generalizing v with
  | zero => rfl
  | succ n ih => simp [leBytes, ih]

/-- Byte `k` of a value is its bits 8k + 7 down to 8k. -/
theorem leBytes_getElem (n : Nat) (v : Word) (k : Nat) (h : k < (leBytes n v).length) :
    (leBytes n v)[k] = v.extractLsb' (8 * k) 8 := by
  induction n generalizing v k with
  | zero => simp at h
  | succ n ih =>
    cases k with
    | zero =>
      apply BitVec.eq_of_getLsbD_eq
      intro i hi
      simp [leBytes, hi]
    | succ k =>
      have hk : k < (leBytes n (v >>> 8)).length := by simpa [leBytes] using h
      have := ih (v >>> 8) k hk
      simp only [leBytes, List.getElem_cons_succ, this]
      apply BitVec.eq_of_getLsbD_eq
      intro i hi
      simp [hi]
      congr 1
      omega

/-- A value of at most eight bytes is the number they spell, the first least significant. -/
theorem leValue_toNat (bs : List Byte) (h : bs.length ≤ 8) :
    (leValue bs).toNat = bs.foldr (fun b acc => b.toNat + 256 * acc) 0 := by
  suffices hs : (leValue bs).toNat = bs.foldr (fun b acc => b.toNat + 256 * acc) 0
      ∧ bs.foldr (fun b acc => b.toNat + 256 * acc) 0 < 256 ^ bs.length from hs.1
  induction bs with
  | nil => simp [leValue]
  | cons b rest ih =>
    have hl : rest.length ≤ 7 := by simp only [List.length_cons] at h; omega
    obtain ⟨hv, hlt⟩ := ih (by omega)
    have hb : b.toNat < 256 := b.isLt
    have h7 : (256 : Nat) ^ rest.length ≤ 256 ^ 7 := Nat.pow_le_pow_right (by norm_num) hl
    have h64 : (256 : Nat) ^ 7 * 256 = 2 ^ 64 := by norm_num
    constructor
    · have hor : b.toNat ||| (leValue rest).toNat <<< 8 = b.toNat + 256 * (leValue rest).toNat := by
        have := Nat.shiftLeft_add_eq_or_of_lt (i := 8) (b := b.toNat) hb (leValue rest).toNat
        rw [Nat.or_comm, ← this, Nat.shiftLeft_eq]
        omega
      simp only [leValue, List.foldr_cons, BitVec.toNat_or, BitVec.toNat_setWidth, BitVec.toNat_shiftLeft]
      rw [Nat.mod_eq_of_lt (by omega : b.toNat < 2 ^ 64),
        Nat.mod_eq_of_lt (by rw [Nat.shiftLeft_eq]; omega : (leValue rest).toNat <<< 8 < 2 ^ 64), hor, hv]
    · simp only [List.foldr_cons, List.length_cons, Nat.pow_succ]
      omega

/-! ### Runs of bytes in Memory -/

@[simp] theorem readCells_length (m : Memory) (o n : Nat) : (readCells m o n).length = n := by
  induction n generalizing o with
  | zero => rfl
  | succ n ih => simp [readCells, ih]

/-- Byte `k` of a run is the byte at its offset. -/
theorem readCells_getElem (m : Memory) (o n k : Nat) (h : k < (readCells m o n).length) :
    (readCells m o n)[k] = getCell m (o + k) := by
  induction n generalizing o k with
  | zero => simp at h
  | succ n ih =>
    cases k with
    | zero => simp [readCells]
    | succ k =>
      have hk : k < (readCells m (o + 1) n).length := by simpa [readCells] using h
      simp only [readCells, List.getElem_cons_succ, ih (o + 1) k hk]
      congr 1
      omega

/-- Writing a run leaves every byte outside it alone, whatever the list. -/
theorem getCell_writeCells_out (m : Memory) (o : Nat) (bs : List Byte) (p : Nat)
    (hp : p < o ∨ o + bs.length ≤ p) : getCell (writeCells m o bs) p = getCell m p := by
  induction bs generalizing m o with
  | nil => rfl
  | cons b rest ih =>
    simp only [List.length_cons] at hp
    simp only [writeCells]
    rw [ih (setCell m o b) (o + 1) (by omega), getCell_setCell_ne m o p b (by omega)]

/-- Writing a run within RAM keeps Memory's canonical form. -/
theorem Memory.wf_writeCells {size : Nat} (m : Memory) (o : Nat) (bs : List Byte) (hb : o + bs.length ≤ size)
    (h : Memory.wf size m = true) : Memory.wf size (writeCells m o bs) = true := by
  induction bs generalizing m o with
  | nil => exact h
  | cons b rest ih =>
    simp only [List.length_cons] at hb
    exact ih (setCell m o b) (o + 1) (by omega) (Memory.wf_setCell m o b (by omega) h)

/-- A byte of a run just written is the byte written there. -/
theorem getCell_writeCells_in {size : Nat} (m : Memory) (o : Nat) (bs : List Byte) (k : Nat) (hk : k < bs.length)
    (hb : o + bs.length ≤ size) (h : Memory.wf size m = true) : getCell (writeCells m o bs) (o + k) = bs[k] := by
  induction bs generalizing m o k with
  | nil => simp at hk
  | cons b rest ih =>
    simp only [List.length_cons] at hb hk
    have hw := Memory.wf_setCell m o b (by omega) h
    simp only [writeCells]
    cases k with
    | zero =>
      rw [getCell_writeCells_out _ _ _ _ (.inl (by omega))]
      exact getCell_setCell_self (lo := 0) (hi := size) m o b h
    | succ k =>
      have := ih (setCell m o b) (o + 1) k (by omega) (by omega) hw
      rw [show o + (k + 1) = o + 1 + k by omega, this]
      rfl

/-! ### The Bus -/

/-- Everything the Bus's translation can answer (20_memory.md R48 to R50). -/
theorem busOffset_eq_ok (s : State) (a : Word) (n o : Nat) :
    s.busOffset a n = .ok o ↔ s.cfg.ramBase.toNat ≤ a.toNat
      ∧ a.toNat - s.cfg.ramBase.toNat + n ≤ s.cfg.ramSize ∧ o = a.toNat - s.cfg.ramBase.toNat := by
  unfold State.busOffset
  split
  · simp; omega
  · split
    · simp; omega
    · simp; omega

/-- The two faults of a translation (20_memory.md R49, R50). -/
theorem busOffset_eq_error (s : State) (a : Word) (n : Nat) (r : FaultReason) :
    s.busOffset a n = .error r ↔
      (a.toNat < s.cfg.ramBase.toNat ∧ r = .unimplementedMMIO a)
        ∨ (s.cfg.ramBase.toNat ≤ a.toNat ∧ s.cfg.ramSize < a.toNat - s.cfg.ramBase.toNat + n
          ∧ r = .memOutOfRange a n) := by
  unfold State.busOffset
  split
  · next h => simp [h, eq_comm, Nat.not_le.mpr h]
  · next h =>
    have hge : s.cfg.ramBase.toNat ≤ a.toNat := by omega
    split
    · next h2 => simp [h, hge, eq_comm, gt_iff_lt.mp h2]
    · next h2 => simp [h, hge]; omega

/-- `MemRead` of 1, 2, 4 or 8 bytes is the translation and then the bytes. -/
theorem memRead_eq (s : State) (a : Word) (n : Nat) (hn : n = 1 ∨ n = 2 ∨ n = 4 ∨ n = 8) :
    s.memRead a n = match s.busOffset a n with
      | .ok o => .ok (leValue (readCells s.mem o n))
      | .error r => .error r := by
  rcases hn with rfl | rfl | rfl | rfl <;> rfl

/-- `MemWrite` of 1, 2, 4 or 8 bytes is the translation and then the bytes. -/
theorem memWrite_eq (s : State) (a : Word) (n : Nat) (v : Word) (hn : n = 1 ∨ n = 2 ∨ n = 4 ∨ n = 8) :
    s.memWrite a n v = match s.busOffset a n with
      | .ok o => .ok (s.setMem (writeCells s.mem o (leBytes n v)))
      | .error r => .error r := by
  rcases hn with rfl | rfl | rfl | rfl <;> rfl

/-- Everything a `MemWrite` that succeeds does. -/
theorem memWrite_eq_ok (s t : State) (a : Word) (n : Nat) (v : Word) (hn : n = 1 ∨ n = 2 ∨ n = 4 ∨ n = 8)
    (h : s.memWrite a n v = .ok t) :
    s.cfg.ramBase.toNat ≤ a.toNat ∧ a.toNat - s.cfg.ramBase.toNat + n ≤ s.cfg.ramSize
      ∧ t = s.setMem (writeCells s.mem (a.toNat - s.cfg.ramBase.toNat) (leBytes n v)) := by
  rw [memWrite_eq s a n v hn] at h
  cases ho : s.busOffset a n with
  | error r => simp [ho] at h
  | ok o =>
    obtain ⟨h1, h2, rfl⟩ := (busOffset_eq_ok s a n o).mp ho
    exact ⟨h1, h2, by simpa [ho] using h.symm⟩

/-- A `MemRead` faults only as its translation does. -/
theorem memRead_eq_error (s : State) (a : Word) (n : Nat) (r : FaultReason) (hn : n = 1 ∨ n = 2 ∨ n = 4 ∨ n = 8) :
    s.memRead a n = .error r ↔ s.busOffset a n = .error r := by
  rw [memRead_eq s a n hn]
  cases s.busOffset a n <;> simp

/-- A `MemWrite` faults only as its translation does. -/
theorem memWrite_eq_error (s : State) (a : Word) (n : Nat) (v : Word) (r : FaultReason)
    (hn : n = 1 ∨ n = 2 ∨ n = 4 ∨ n = 8) : s.memWrite a n v = .error r ↔ s.busOffset a n = .error r := by
  rw [memWrite_eq s a n v hn]
  cases s.busOffset a n <;> simp

end Sys2Proof.Machine
end

