-- ==== Sys2Proof/Laws/Ops.lean ====
section
/-! SUPPORT. One lemma per shared operation of the instruction families, saying everything it can do, and the
invariant's preservation by each update. -/

namespace Sys2Proof.Machine

/-! ### CSR bank -/

/-- A slot write seen by a slot read, in a canonical bank. -/
theorem csrSlot_setCsrSlot (s : State) (a b : CsrAddr) (v : Word) (h : CsrBank.wf s.csr = true) :
    (s.setCsrSlot a v).csrSlot b = if b = a then v else s.csrSlot b := by
  simp only [CsrBank.wf, Bool.and_eq_true] at h
  unfold State.csrSlot State.setCsrSlot
  split
  · next hab => subst hab; exact getCell_setCell_self (lo := 0) (hi := 4096) s.csr b.toNat v h.1
  · next hab =>
    exact getCell_setCell_ne s.csr a.toNat b.toNat v fun e => hab (BitVec.eq_of_toNat_eq e)

/-- Everything `csr_write` does to the slots (10_state.md R34). -/
theorem csrWrite_becomes (s : State) (a : CsrAddr) (v : Word) (h : CsrBank.wf s.csr = true) :
    CsrBecomes s (s.csrWrite a v) a v := by
  unfold CsrBecomes State.csrWrite
  by_cases ha : a = csrSIE
  · have ha' : a = 0x104#12 := ha
    simp only [ha, if_true]
    refine ⟨?_, fun b hb => ?_⟩
    · rw [csrSlot_setCsrSlot _ _ _ _ h]; simp [csrMIE, csrMIDELEG]
    · rw [csrSlot_setCsrSlot _ _ _ _ h]; simp [csrMIE, hb]
  · have ha' : ¬ a = 0x104#12 := ha
    simp only [ha, ha', if_false]
    refine ⟨?_, fun b hb => ?_⟩
    · rw [csrSlot_setCsrSlot _ _ _ _ h]; simp
    · rw [csrSlot_setCsrSlot _ _ _ _ h]; simp [hb]

/-! ### The instruction families' shared operations -/

/-- A load (40_loads.md R85) faults as its read does, or writes rd. -/
theorem load_cases (s : State) (n : Nat) (e : Word → Word) (rd rs1 : RegIx) (imm : BitVec 12) :
    (∃ r, s.memRead (s.loadAddr rs1 imm) n = .error r ∧ s.load n e rd rs1 imm = s.raise r)
      ∨ ∃ v, s.memRead (s.loadAddr rs1 imm) n = .ok v ∧ s.load n e rd rs1 imm = .next (s.writeX rd (e v)) := by
  unfold State.load
  cases s.memRead (s.loadAddr rs1 imm) n with
  | error r => exact .inl ⟨r, rfl, rfl⟩
  | ok v => exact .inr ⟨v, rfl, rfl⟩

/-- A store (43_stores.md R110) faults as its write does, or writes. -/
theorem store_cases (s : State) (n : Nat) (rs2 rs1 : RegIx) (imm : BitVec 12) :
    (∃ r, s.memWrite (s.storeAddr rs1 imm) n (s.readX rs2) = .error r ∧ s.store n rs2 rs1 imm = s.raise r)
      ∨ ∃ t, s.memWrite (s.storeAddr rs1 imm) n (s.readX rs2) = .ok t ∧ s.store n rs2 rs1 imm = .next t := by
  unfold State.store
  cases s.memWrite (s.storeAddr rs1 imm) n (s.readX rs2) with
  | error r => exact .inl ⟨r, rfl, rfl⟩
  | ok t => exact .inr ⟨t, rfl, rfl⟩

/-- An AMO (44_atomics.md R115) faults as its read does, or reads, writes and links; its write never faults. -/
theorem amo_cases (s : State) (n : Nat) (c : Word → Word → Word) (e : Word → Word) (rd rs2 rs1 : RegIx)
    (hn : n = 1 ∨ n = 2 ∨ n = 4 ∨ n = 8) :
    (∃ r, s.memRead (s.amoAddr rs1) n = .error r ∧ s.amo n c e rd rs2 rs1 = s.raise r)
      ∨ ∃ old t, s.memRead (s.amoAddr rs1) n = .ok old
        ∧ s.memWrite (s.amoAddr rs1) n (c old (s.readX rs2)) = .ok t
        ∧ s.amo n c e rd rs2 rs1 = .next (t.writeX rd (e old)) := by
  unfold State.amo
  cases hr : s.memRead (s.amoAddr rs1) n with
  | error r => exact .inl ⟨r, rfl, rfl⟩
  | ok old =>
    refine .inr ⟨old, ?_⟩
    cases hw : s.memWrite (s.amoAddr rs1) n (c old (s.readX rs2)) with
    | ok t => exact ⟨t, rfl, rfl, by simp [hw]⟩
    | error r =>
      rw [memWrite_eq_error _ _ _ _ _ hn] at hw
      rw [memRead_eq _ _ _ hn, hw] at hr
      simp at hr

/-- The register forms of CSR access (47_system.md R148) always complete. -/
theorem csrRegister_cases (s : State) (new : Word → Word → Word) (rd : RegIx) (csr : CsrAddr) (rs1 : RegIx) :
    s.csrRegister new rd csr rs1 =
      .next (((s.csrWrite csr (new (s.csrRead csr)
        (if s.cfg.sequentialLink then (s.writeX rd (s.csrRead csr)).readX rs1 else s.readX rs1)))).writeX rd
          (s.csrRead csr)) := by
  have hcomm : ∀ v w, (s.writeX rd v).csrWrite csr w = (s.csrWrite csr w).writeX rd v := by
    intro v w
    unfold State.writeX
    split
    · rfl
    · unfold State.csrWrite
      split <;> rfl
  unfold State.csrRegister
  cases s.cfg.sequentialLink <;> simp [hcomm]

/-! ### The invariant -/

theorem wf_iff (s : State) : s.wf = true ↔ s.cfg.wf = true ∧ Memory.wf s.cfg.ramSize s.mem = true
    ∧ CsrBank.wf s.csr = true ∧ s.x[0] = 0#64 := by
  simp [State.wf, and_assoc]

theorem writeX_x0 (s : State) (r : RegIx) (v : Word) : (s.writeX r v).x[0] = s.x[0] := by
  unfold State.writeX
  split
  · rfl
  · next h =>
    have : r.toNat ≠ 0 := fun e => h (BitVec.eq_of_toNat_eq e)
    simp [Vector.getElem_set_ne, this]

theorem csrWrite_wf (s : State) (a : CsrAddr) (v : Word) (h : CsrBank.wf s.csr = true) :
    CsrBank.wf (s.csrWrite a v).csr = true := by
  unfold State.csrWrite
  split
  · exact CsrBank.wf_setCell s.csr csrMIE _ (by decide) h
  · next ha =>
    refine CsrBank.wf_setCell s.csr a v (fun e => ha ?_) h
    exact BitVec.eq_of_toNat_eq e

/-- A register write keeps the invariant. -/
theorem wf_writeX (s : State) (r : RegIx) (v : Word) (h : s.wf = true) : (s.writeX r v).wf = true := by
  rw [wf_iff] at h ⊢
  simpa [writeX_x0] using h

/-- A CSR write keeps the invariant. -/
theorem wf_csrWrite (s : State) (a : CsrAddr) (v : Word) (h : s.wf = true) : (s.csrWrite a v).wf = true := by
  rw [wf_iff] at h ⊢
  exact ⟨by simpa using h.1, by simpa using h.2.1, csrWrite_wf s a v h.2.2.1, by simpa using h.2.2.2⟩

/-- A Bus write keeps the invariant. -/
theorem wf_memWrite (s t : State) (a : Word) (n : Nat) (v : Word) (hn : n = 1 ∨ n = 2 ∨ n = 4 ∨ n = 8)
    (hw : s.memWrite a n v = .ok t) (h : s.wf = true) : t.wf = true := by
  obtain ⟨_, h2, rfl⟩ := memWrite_eq_ok s t a n v hn hw
  rw [wf_iff] at h ⊢
  refine ⟨by simpa using h.1, ?_, by simpa using h.2.2⟩
  simpa using Memory.wf_writeCells s.mem _ (leBytes n v) (by simpa using h2) h.2.1

@[simp] theorem wf_setPc (s : State) (t : Word) : (s.setPc t).wf = s.wf := rfl
@[simp] theorem wf_setMode (s : State) (m : Mode) : (s.setMode m).wf = s.wf := rfl
@[simp] theorem wf_setStatus (s : State) (e : EngineStatus) : (s.setStatus e).wf = s.wf := rfl
@[simp] theorem wf_preAdvance (s : State) : s.preAdvance.wf = s.wf := rfl

end Sys2Proof.Machine
end

