-- ==== Sys2Proof/Laws/PerInstr.lean ====
section
/-! SUPPORT. Facts about every instruction as syntax, one lemma per constructor. EncodedOpcode: the word of an
instruction carries an opcode of 30_encoding.md R76, so its low two bits are binary 11 (R82). -/

namespace Sys2Proof.Laws.EncodedOpcode

/-- The word of `i` has the opcode of one of the thirteen families, and so ends in binary 11. -/
def Statement (i : Instr) : Prop :=
  (familyOf (opcodeOf (encode i))).isSome = true ∧ (opcodeOf (encode i)).extractLsb' 0 2 = 3#2

/-- It is enough to know the opcode. -/
theorem of_opcode (i : Instr) (op : BitVec 7) (h : opcodeOf (encode i) = op)
    (hop : (familyOf op).isSome = true ∧ op.extractLsb' 0 2 = 3#2) : Statement i := by
  subst h
  exact hop

theorem lb (rd rs1 : RegIx) (imm : BitVec 12) : Statement (.lb rd rs1 imm) :=
  of_opcode _ 0x03#7 (opcodeOf_iWord _ _ _ _ _) (by decide)
theorem lh (rd rs1 : RegIx) (imm : BitVec 12) : Statement (.lh rd rs1 imm) :=
  of_opcode _ 0x03#7 (opcodeOf_iWord _ _ _ _ _) (by decide)
theorem lw (rd rs1 : RegIx) (imm : BitVec 12) : Statement (.lw rd rs1 imm) :=
  of_opcode _ 0x03#7 (opcodeOf_iWord _ _ _ _ _) (by decide)
theorem ld (rd rs1 : RegIx) (imm : BitVec 12) : Statement (.ld rd rs1 imm) :=
  of_opcode _ 0x03#7 (opcodeOf_iWord _ _ _ _ _) (by decide)
theorem lbu (rd rs1 : RegIx) (imm : BitVec 12) : Statement (.lbu rd rs1 imm) :=
  of_opcode _ 0x03#7 (opcodeOf_iWord _ _ _ _ _) (by decide)
theorem lhu (rd rs1 : RegIx) (imm : BitVec 12) : Statement (.lhu rd rs1 imm) :=
  of_opcode _ 0x03#7 (opcodeOf_iWord _ _ _ _ _) (by decide)
theorem lwu (rd rs1 : RegIx) (imm : BitVec 12) : Statement (.lwu rd rs1 imm) :=
  of_opcode _ 0x03#7 (opcodeOf_iWord _ _ _ _ _) (by decide)
theorem addi (rd rs1 : RegIx) (imm : BitVec 12) : Statement (.addi rd rs1 imm) :=
  of_opcode _ 0x13#7 (opcodeOf_iWord _ _ _ _ _) (by decide)
theorem slti (rd rs1 : RegIx) (imm : BitVec 12) : Statement (.slti rd rs1 imm) :=
  of_opcode _ 0x13#7 (opcodeOf_iWord _ _ _ _ _) (by decide)
theorem sltiu (rd rs1 : RegIx) (imm : BitVec 12) : Statement (.sltiu rd rs1 imm) :=
  of_opcode _ 0x13#7 (opcodeOf_iWord _ _ _ _ _) (by decide)
theorem xori (rd rs1 : RegIx) (imm : BitVec 12) : Statement (.xori rd rs1 imm) :=
  of_opcode _ 0x13#7 (opcodeOf_iWord _ _ _ _ _) (by decide)
theorem ori (rd rs1 : RegIx) (imm : BitVec 12) : Statement (.ori rd rs1 imm) :=
  of_opcode _ 0x13#7 (opcodeOf_iWord _ _ _ _ _) (by decide)
theorem andi (rd rs1 : RegIx) (imm : BitVec 12) : Statement (.andi rd rs1 imm) :=
  of_opcode _ 0x13#7 (opcodeOf_iWord _ _ _ _ _) (by decide)
theorem slli (rd rs1 : RegIx) (shamt : BitVec 6) : Statement (.slli rd rs1 shamt) :=
  of_opcode _ 0x13#7 (opcodeOf_shift64Word _ _ _ _ _) (by decide)
theorem srli (rd rs1 : RegIx) (shamt : BitVec 6) : Statement (.srli rd rs1 shamt) :=
  of_opcode _ 0x13#7 (opcodeOf_shift64Word _ _ _ _ _) (by decide)
theorem srai (rd rs1 : RegIx) (shamt : BitVec 6) : Statement (.srai rd rs1 shamt) :=
  of_opcode _ 0x13#7 (opcodeOf_shift64Word _ _ _ _ _) (by decide)
theorem addiw (rd rs1 : RegIx) (imm : BitVec 12) : Statement (.addiw rd rs1 imm) :=
  of_opcode _ 0x1b#7 (opcodeOf_iWord _ _ _ _ _) (by decide)
theorem slliw (rd rs1 : RegIx) (shamt : BitVec 5) : Statement (.slliw rd rs1 shamt) :=
  of_opcode _ 0x1b#7 (opcodeOf_shift32Word _ _ _ _ _) (by decide)
theorem srliw (rd rs1 : RegIx) (shamt : BitVec 5) : Statement (.srliw rd rs1 shamt) :=
  of_opcode _ 0x1b#7 (opcodeOf_shift32Word _ _ _ _ _) (by decide)
theorem sraiw (rd rs1 : RegIx) (shamt : BitVec 5) : Statement (.sraiw rd rs1 shamt) :=
  of_opcode _ 0x1b#7 (opcodeOf_shift32Word _ _ _ _ _) (by decide)
theorem auipc (rd : RegIx) (imm20 : BitVec 20) : Statement (.auipc rd imm20) :=
  of_opcode _ 0x17#7 (opcodeOf_uWord _ _ _) (by decide)
theorem lui (rd : RegIx) (imm20 : BitVec 20) : Statement (.lui rd imm20) :=
  of_opcode _ 0x37#7 (opcodeOf_uWord _ _ _) (by decide)
theorem sb (rs2 rs1 : RegIx) (imm : BitVec 12) : Statement (.sb rs2 rs1 imm) :=
  of_opcode _ 0x23#7 (opcodeOf_sWord _ _ _ _) (by decide)
theorem sh (rs2 rs1 : RegIx) (imm : BitVec 12) : Statement (.sh rs2 rs1 imm) :=
  of_opcode _ 0x23#7 (opcodeOf_sWord _ _ _ _) (by decide)
theorem sw (rs2 rs1 : RegIx) (imm : BitVec 12) : Statement (.sw rs2 rs1 imm) :=
  of_opcode _ 0x23#7 (opcodeOf_sWord _ _ _ _) (by decide)
theorem sd (rs2 rs1 : RegIx) (imm : BitVec 12) : Statement (.sd rs2 rs1 imm) :=
  of_opcode _ 0x23#7 (opcodeOf_sWord _ _ _ _) (by decide)
theorem amoaddW (rd rs2 rs1 : RegIx) (aq rl : Bool) : Statement (.amoaddW rd rs2 rs1 aq rl) :=
  of_opcode _ 0x2f#7 (opcodeOf_amoWord _ _ _ _ _ _ _) (by decide)
theorem amoswapW (rd rs2 rs1 : RegIx) (aq rl : Bool) : Statement (.amoswapW rd rs2 rs1 aq rl) :=
  of_opcode _ 0x2f#7 (opcodeOf_amoWord _ _ _ _ _ _ _) (by decide)
theorem amoaddD (rd rs2 rs1 : RegIx) (aq rl : Bool) : Statement (.amoaddD rd rs2 rs1 aq rl) :=
  of_opcode _ 0x2f#7 (opcodeOf_amoWord _ _ _ _ _ _ _) (by decide)
theorem amoswapD (rd rs2 rs1 : RegIx) (aq rl : Bool) : Statement (.amoswapD rd rs2 rs1 aq rl) :=
  of_opcode _ 0x2f#7 (opcodeOf_amoWord _ _ _ _ _ _ _) (by decide)
theorem add (rd rs1 rs2 : RegIx) : Statement (.add rd rs1 rs2) :=
  of_opcode _ 0x33#7 (opcodeOf_rWord _ _ _ _ _ _) (by decide)
theorem sub (rd rs1 rs2 : RegIx) : Statement (.sub rd rs1 rs2) :=
  of_opcode _ 0x33#7 (opcodeOf_rWord _ _ _ _ _ _) (by decide)
theorem mul (rd rs1 rs2 : RegIx) : Statement (.mul rd rs1 rs2) :=
  of_opcode _ 0x33#7 (opcodeOf_rWord _ _ _ _ _ _) (by decide)
theorem sll (rd rs1 rs2 : RegIx) : Statement (.sll rd rs1 rs2) :=
  of_opcode _ 0x33#7 (opcodeOf_rWord _ _ _ _ _ _) (by decide)
theorem slt (rd rs1 rs2 : RegIx) : Statement (.slt rd rs1 rs2) :=
  of_opcode _ 0x33#7 (opcodeOf_rWord _ _ _ _ _ _) (by decide)
theorem sltu (rd rs1 rs2 : RegIx) : Statement (.sltu rd rs1 rs2) :=
  of_opcode _ 0x33#7 (opcodeOf_rWord _ _ _ _ _ _) (by decide)
theorem xor (rd rs1 rs2 : RegIx) : Statement (.xor rd rs1 rs2) :=
  of_opcode _ 0x33#7 (opcodeOf_rWord _ _ _ _ _ _) (by decide)
theorem srl (rd rs1 rs2 : RegIx) : Statement (.srl rd rs1 rs2) :=
  of_opcode _ 0x33#7 (opcodeOf_rWord _ _ _ _ _ _) (by decide)
theorem sra (rd rs1 rs2 : RegIx) : Statement (.sra rd rs1 rs2) :=
  of_opcode _ 0x33#7 (opcodeOf_rWord _ _ _ _ _ _) (by decide)
theorem or (rd rs1 rs2 : RegIx) : Statement (.or rd rs1 rs2) :=
  of_opcode _ 0x33#7 (opcodeOf_rWord _ _ _ _ _ _) (by decide)
theorem and (rd rs1 rs2 : RegIx) : Statement (.and rd rs1 rs2) :=
  of_opcode _ 0x33#7 (opcodeOf_rWord _ _ _ _ _ _) (by decide)
theorem addw (rd rs1 rs2 : RegIx) : Statement (.addw rd rs1 rs2) :=
  of_opcode _ 0x3b#7 (opcodeOf_rWord _ _ _ _ _ _) (by decide)
theorem subw (rd rs1 rs2 : RegIx) : Statement (.subw rd rs1 rs2) :=
  of_opcode _ 0x3b#7 (opcodeOf_rWord _ _ _ _ _ _) (by decide)
theorem mulw (rd rs1 rs2 : RegIx) : Statement (.mulw rd rs1 rs2) :=
  of_opcode _ 0x3b#7 (opcodeOf_rWord _ _ _ _ _ _) (by decide)
theorem sllw (rd rs1 rs2 : RegIx) : Statement (.sllw rd rs1 rs2) :=
  of_opcode _ 0x3b#7 (opcodeOf_rWord _ _ _ _ _ _) (by decide)
theorem srlw (rd rs1 rs2 : RegIx) : Statement (.srlw rd rs1 rs2) :=
  of_opcode _ 0x3b#7 (opcodeOf_rWord _ _ _ _ _ _) (by decide)
theorem sraw (rd rs1 rs2 : RegIx) : Statement (.sraw rd rs1 rs2) :=
  of_opcode _ 0x3b#7 (opcodeOf_rWord _ _ _ _ _ _) (by decide)
theorem beq (rs1 rs2 : RegIx) (imm : BitVec 13) : Statement (.beq rs1 rs2 imm) :=
  of_opcode _ 0x63#7 (opcodeOf_bWord _ _ _ _) (by decide)
theorem bne (rs1 rs2 : RegIx) (imm : BitVec 13) : Statement (.bne rs1 rs2 imm) :=
  of_opcode _ 0x63#7 (opcodeOf_bWord _ _ _ _) (by decide)
theorem blt (rs1 rs2 : RegIx) (imm : BitVec 13) : Statement (.blt rs1 rs2 imm) :=
  of_opcode _ 0x63#7 (opcodeOf_bWord _ _ _ _) (by decide)
theorem bge (rs1 rs2 : RegIx) (imm : BitVec 13) : Statement (.bge rs1 rs2 imm) :=
  of_opcode _ 0x63#7 (opcodeOf_bWord _ _ _ _) (by decide)
theorem bltu (rs1 rs2 : RegIx) (imm : BitVec 13) : Statement (.bltu rs1 rs2 imm) :=
  of_opcode _ 0x63#7 (opcodeOf_bWord _ _ _ _) (by decide)
theorem bgeu (rs1 rs2 : RegIx) (imm : BitVec 13) : Statement (.bgeu rs1 rs2 imm) :=
  of_opcode _ 0x63#7 (opcodeOf_bWord _ _ _ _) (by decide)
theorem jalr (rd rs1 : RegIx) (imm : BitVec 12) : Statement (.jalr rd rs1 imm) :=
  of_opcode _ 0x67#7 (opcodeOf_iWord _ _ _ _ _) (by decide)
theorem jal (rd : RegIx) (imm : BitVec 21) : Statement (.jal rd imm) :=
  of_opcode _ 0x6f#7 (opcodeOf_jWord _ _) (by decide)
theorem csrrw (rd : RegIx) (csr : CsrAddr) (rs1 : RegIx) : Statement (.csrrw rd csr rs1) :=
  of_opcode _ 0x73#7 (opcodeOf_iWord _ _ _ _ _) (by decide)
theorem csrrs (rd : RegIx) (csr : CsrAddr) (rs1 : RegIx) : Statement (.csrrs rd csr rs1) :=
  of_opcode _ 0x73#7 (opcodeOf_iWord _ _ _ _ _) (by decide)
theorem csrrc (rd : RegIx) (csr : CsrAddr) (rs1 : RegIx) : Statement (.csrrc rd csr rs1) :=
  of_opcode _ 0x73#7 (opcodeOf_iWord _ _ _ _ _) (by decide)
theorem csrrwi (rd : RegIx) (csr : CsrAddr) (zimm : BitVec 5) : Statement (.csrrwi rd csr zimm) :=
  of_opcode _ 0x73#7 (opcodeOf_iWord _ _ _ _ _) (by decide)
theorem csrrsi (rd : RegIx) (csr : CsrAddr) (zimm : BitVec 5) : Statement (.csrrsi rd csr zimm) :=
  of_opcode _ 0x73#7 (opcodeOf_iWord _ _ _ _ _) (by decide)
theorem csrrci (rd : RegIx) (csr : CsrAddr) (zimm : BitVec 5) : Statement (.csrrci rd csr zimm) :=
  of_opcode _ 0x73#7 (opcodeOf_iWord _ _ _ _ _) (by decide)
theorem sret : Statement .sret := of_opcode _ 0x73#7 (by decide) (by decide)
theorem mret : Statement .mret := of_opcode _ 0x73#7 (by decide) (by decide)
theorem sfenceVma (rs1 rs2 : RegIx) : Statement (.sfenceVma rs1 rs2) :=
  of_opcode _ 0x73#7 (opcodeOf_rWord _ _ _ _ _ _) (by decide)

end Sys2Proof.Laws.EncodedOpcode
end

