-- ==== Sys2Proof/Laws/Step.lean ====
section
/-! SUPPORT. What an instruction and a step can do, said once: every outcome of `exec` has one of ten shapes and every
outcome of `step` one of four. An invariant of the machine is proved by cases on these. -/

namespace Sys2Proof.Machine

/-- A register write is exactly a write to that register. -/
theorem writesOnly_writeX (s : State) (rd : RegIx) (v : Word) : WritesOnly s (s.writeX rd v) rd v := by
  refine ⟨⟨?_, fun r hr => ?_⟩, by simp, by simp, fun a => by simp, fun o => by simp, by simp [SameHidden]⟩
  · rw [readX_writeX]
    by_cases h : rd = 0#5 <;> simp [h]
  · rw [readX_writeX]
    by_cases h : r = 0#5 <;> simp [h, hr]

/-- The bytes of a run spell the number `ramNat` names. -/
theorem readCells_ramNat (s : State) (n o : Nat) :
    (readCells s.mem o n).foldr (fun b acc => b.toNat + 256 * acc) 0 = ramNat s o n := by
  induction n generalizing o with
  | zero => rfl
  | succ n ih => simp [readCells, ramNat, ih, State.ramByte]

theorem ramNat_lt (s : State) (n o : Nat) : ramNat s o n < 256 ^ n := by
  induction n generalizing o with
  | zero => simp [ramNat]
  | succ n ih =>
    have h := ih (o + 1)
    have hb := (s.ramByte o).isLt
    simp only [ramNat, Nat.pow_succ]
    omega

/-- The shapes an instruction's outcome can have. -/
inductive ExecCase (s : State) : Host.Outcome State Fault Refusal → Prop
  /-- It writes a register. -/
  | register (rd : RegIx) (v : Word) : ExecCase s (.next (s.writeX rd v))
  /-- It writes memory. -/
  | memory (a : Word) (n : Nat) (v : Word) (t : State) (hn : n = 1 ∨ n = 2 ∨ n = 4 ∨ n = 8)
      (hw : s.memWrite a n v = .ok t) : ExecCase s (.next t)
  /-- It writes memory and a register. -/
  | memoryAndRegister (a : Word) (n : Nat) (v : Word) (t : State) (rd : RegIx) (u : Word)
      (hn : n = 1 ∨ n = 2 ∨ n = 4 ∨ n = 8) (hw : s.memWrite a n v = .ok t) : ExecCase s (.next (t.writeX rd u))
  /-- It writes pc. -/
  | jump (t : Word) : ExecCase s (.next (s.setPc t))
  /-- It writes a register and pc. -/
  | link (rd : RegIx) (v t : Word) : ExecCase s (.next ((s.writeX rd v).setPc t))
  /-- It writes a CSR and a register. -/
  | csr (a : CsrAddr) (v : Word) (rd : RegIx) (u : Word) : ExecCase s (.next ((s.csrWrite a v).writeX rd u))
  /-- It returns from a trap. -/
  | trapReturn (t : Word) (m : Mode) (a : CsrAddr) (v : Word) : ExecCase s (.next (s.trapReturn t m a v))
  /-- It changes nothing. -/
  | nothing : ExecCase s (.next s)
  /-- Its memory access faults. -/
  | accessFault (a : Word) (n : Nat) (r : FaultReason) (hn : n = 1 ∨ n = 2 ∨ n = 4 ∨ n = 8)
      (hb : s.busOffset a n = .error r) : ExecCase s (s.raise r)
  /-- It is `mret` with the reserved MPP. -/
  | reservedMPP (hc : s.cfg.mpp2Behaviour = .fault) (hm : (s.csrRead csrMSTATUS).extractLsb' 11 2 = 2#2) :
      ExecCase s (s.raise (.reservedMPP (s.csrRead csrMSTATUS)))

theorem load_execCase (s : State) (n : Nat) (e : Word → Word) (rd rs1 : RegIx) (imm : BitVec 12)
    (hn : n = 1 ∨ n = 2 ∨ n = 4 ∨ n = 8) : ExecCase s (s.load n e rd rs1 imm) := by
  rcases load_cases s n e rd rs1 imm with ⟨r, hr, h⟩ | ⟨v, -, h⟩ <;> rw [h]
  · exact .accessFault _ n r hn ((memRead_eq_error _ _ _ _ hn).mp hr)
  · exact .register ..

theorem store_execCase (s : State) (n : Nat) (rs2 rs1 : RegIx) (imm : BitVec 12)
    (hn : n = 1 ∨ n = 2 ∨ n = 4 ∨ n = 8) : ExecCase s (s.store n rs2 rs1 imm) := by
  rcases store_cases s n rs2 rs1 imm with ⟨r, hr, h⟩ | ⟨t, hw, h⟩ <;> rw [h]
  · exact .accessFault _ n r hn ((memWrite_eq_error _ _ _ _ _ hn).mp hr)
  · exact .memory _ n _ t hn hw

theorem amo_execCase (s : State) (n : Nat) (c : Word → Word → Word) (e : Word → Word) (rd rs2 rs1 : RegIx)
    (hn : n = 1 ∨ n = 2 ∨ n = 4 ∨ n = 8) : ExecCase s (s.amo n c e rd rs2 rs1) := by
  rcases amo_cases s n c e rd rs2 rs1 hn with ⟨r, hr, h⟩ | ⟨old, t, -, hw, h⟩ <;> rw [h]
  · exact .accessFault _ n r hn ((memRead_eq_error _ _ _ _ hn).mp hr)
  · exact .memoryAndRegister _ n _ t _ _ hn hw

theorem branch_execCase (s : State) (taken : Bool) (imm : BitVec 13) : ExecCase s (s.branch taken imm) := by
  cases taken
  · exact .nothing
  · exact .jump _

theorem csrRegister_execCase (s : State) (new : Word → Word → Word) (rd : RegIx) (a : CsrAddr) (rs1 : RegIx) :
    ExecCase s (s.csrRegister new rd a rs1) := by
  rw [csrRegister_cases]
  exact .csr ..

/-- No mode is found only where MPP is 2 and MPP2_BEHAVIOUR says fault. -/
theorem mretMode_eq_none (b : Mpp2Behaviour) (v : Word) :
    mretMode b v = none ↔ b = .fault ∧ v.extractLsb' 11 2 = 2#2 := by
  unfold mretMode
  generalize v.extractLsb' 11 2 = p
  revert p
  cases b <;> decide

theorem mret_execCase (s : State) : ExecCase s (execMret s) := by
  simp only [execMret]
  cases h : mretMode s.cfg.mpp2Behaviour (s.csrRead csrMSTATUS) with
  | none =>
    obtain ⟨hc, hm⟩ := (mretMode_eq_none _ _).mp h
    exact .reservedMPP hc hm
  | some m => exact .trapReturn ..

/-- Everything an instruction can do. -/
theorem exec_cases (i : Instr) (s : State) : ExecCase s (exec i s) := by
  cases i
  case mret => exact mret_execCase s
  all_goals first
    | exact ExecCase.register _ _
    | exact load_execCase _ _ _ _ _ _ (by simp)
    | exact store_execCase _ _ _ _ _ (by simp)
    | exact amo_execCase _ _ _ _ _ _ _ (by simp)
    | exact branch_execCase _ _ _
    | exact csrRegister_execCase _ _ _ _ _
    | exact ExecCase.nothing
    | exact ExecCase.link _ _ _
    | exact ExecCase.trapReturn _ _ _ _
    | exact ExecCase.csr _ _ _ _

/-- The shapes a step's outcome can have. -/
inductive StepCase (s : State) : Host.Outcome State Fault Refusal → Prop
  /-- The core is not Running. -/
  | stuck (h : s.status ≠ .running) : StepCase s (.fault (.notRunning s))
  /-- The fetch faults. -/
  | fetchFault (r : FaultReason) (h : s.status = .running) (hf : s.fetch = .error r) : StepCase s (s.raise r)
  /-- The word decodes to nothing. -/
  | decodeFault (w : InstWord) (e : DecodeReject) (h : s.status = .running) (hf : s.fetch = .ok w)
      (hd : decodeWord s.cfg.hasMulw w = .error e) : StepCase s (s.preAdvance.raise (decodeFaultOf w))
  /-- The word's instruction is executed. -/
  | executed (w : InstWord) (i : Instr) (h : s.status = .running) (hf : s.fetch = .ok w)
      (hd : decodeWord s.cfg.hasMulw w = .ok i) : StepCase s (haltCheck (exec i s.preAdvance))

/-- Everything a step can do. -/
theorem step_cases (s : State) : StepCase s (step s) := by
  unfold step
  cases hs : s.status with
  | running =>
    dsimp only
    unfold State.stepRunning
    cases hf : s.fetch with
    | error r => exact .fetchFault r hs hf
    | ok w =>
      dsimp only
      unfold State.executeWord
      cases hd : decodeWord s.cfg.hasMulw w with
      | error e => exact .decodeFault w e hs hf hd
      | ok i => exact .executed w i hs hf hd
  | halted => exact .stuck (by simp [hs])
  | faulted r => exact .stuck (by simp [hs])

/-- The halt check passes a next state on, its status changed to Halted where pc is zero. -/
theorem haltCheck_eq_next (o : Host.Outcome State Fault Refusal) (t : State) :
    haltCheck o = .next t ↔ ∃ u, o = .next u ∧ t = if u.pc = 0#64 then u.setStatus .halted else u := by
  cases o <;> simp [haltCheck]
  exact eq_comm

/-- The halt check passes a fault on. -/
theorem haltCheck_eq_fault (o : Host.Outcome State Fault Refusal) (f : Fault) :
    haltCheck o = .fault f ↔ o = .fault f := by
  cases o <;> simp [haltCheck]

/-! ### The next pc and the next mode of the instructions that set them, so that no proof unfolds the whole match -/

@[simp] theorem nextPc_beq (s : State) (a b : RegIx) (imm : BitVec 13) : nextPc s (.beq a b imm)
    = if s.readX a = s.readX b then s.pc + wordOfInt imm.toInt else s.pc + 4#64 := rfl
@[simp] theorem nextPc_bne (s : State) (a b : RegIx) (imm : BitVec 13) : nextPc s (.bne a b imm)
    = if s.readX a ≠ s.readX b then s.pc + wordOfInt imm.toInt else s.pc + 4#64 := rfl
@[simp] theorem nextPc_blt (s : State) (a b : RegIx) (imm : BitVec 13) : nextPc s (.blt a b imm)
    = if (s.readX a).toInt < (s.readX b).toInt then s.pc + wordOfInt imm.toInt else s.pc + 4#64 := rfl
@[simp] theorem nextPc_bge (s : State) (a b : RegIx) (imm : BitVec 13) : nextPc s (.bge a b imm)
    = if (s.readX b).toInt ≤ (s.readX a).toInt then s.pc + wordOfInt imm.toInt else s.pc + 4#64 := rfl
@[simp] theorem nextPc_bltu (s : State) (a b : RegIx) (imm : BitVec 13) : nextPc s (.bltu a b imm)
    = if (s.readX a).toNat < (s.readX b).toNat then s.pc + wordOfInt imm.toInt else s.pc + 4#64 := rfl
@[simp] theorem nextPc_bgeu (s : State) (a b : RegIx) (imm : BitVec 13) : nextPc s (.bgeu a b imm)
    = if (s.readX b).toNat ≤ (s.readX a).toNat then s.pc + wordOfInt imm.toInt else s.pc + 4#64 := rfl
@[simp] theorem nextPc_jal (s : State) (rd : RegIx) (imm : BitVec 21) :
    nextPc s (.jal rd imm) = s.pc + wordOfInt imm.toInt := rfl
@[simp] theorem nextPc_jalr (s : State) (rd rs1 : RegIx) (imm : BitVec 12) : nextPc s (.jalr rd rs1 imm)
    = ((if s.cfg.sequentialLink ∧ rd = rs1 ∧ rd ≠ 0#5 then s.pc + 4#64 else s.readX rs1) + wordOfInt imm.toInt)
      &&& ~~~1#64 := rfl
@[simp] theorem nextPc_sret (s : State) : nextPc s .sret = s.csrRead 0x141#12 := rfl
@[simp] theorem nextPc_mret (s : State) : nextPc s .mret = s.csrRead 0x341#12 := rfl
@[simp] theorem nextMode_sret (s : State) :
    nextMode s .sret = if (s.csrRead 0x100#12).getLsbD 8 then .supervisor else .user := rfl

end Sys2Proof.Machine
end

