-- ==== Sys2Proof/Tests/Slice0.lean ====
section
/-! SUPPORT. Tests of the model: the checks of WellFormed, words written out from the spec, one-step vectors of
95_test_vectors.md (the number after V is the vector's), and for each statement with hypotheses a witness that meets
them. Expected values are the spec's. -/

open Sys2Proof.Machine

namespace Sys2Proof.Tests

/-! ### Helpers -/

/-- The core of the vectors: RAM_BASE 0x8000_0000, RAM_SIZE 0x1_0000, IMAGE_MARGIN 1, the default switches. -/
def vectorCore : State := { State.reset with cfg := { Config.default with ramSize := 0x10000 } }

/-- RAM_BASE of the vectors. -/
def base : Word := 0x80000000#64

/-- The state under other parameters or switches. -/
def withCfg (s : State) (cfg : Config) : State := { s with cfg := cfg }

/-- The state with these register values. -/
def withRegs (s : State) (regs : List (RegIx × Word)) : State := regs.foldl (fun t p => t.writeX p.1 p.2) s

/-- The state with these CSR slots. -/
def withCsrs (s : State) (csrs : List (CsrAddr × Word)) : State := csrs.foldl (fun t p => t.setCsrSlot p.1 p.2) s

/-- The state with these bytes in RAM from the offset up. -/
def withBytes (s : State) (o : Nat) (bytes : List Byte) : State := s.setMem (writeCells s.mem o bytes)

/-- The RAM bytes of the load vectors. -/
def loadBytes : List Byte :=
  [0x01, 0x80, 0x34, 0x82, 0x78, 0x56, 0x34, 0xF2, 0x01, 0x02, 0x03, 0x04, 0x05, 0x06, 0x07, 0x08]

/-- The RAM bytes of the AMO vectors. -/
def amoBytes : List Byte := [0xFF, 0xFF, 0xFF, 0xFF, 0x80, 0x00, 0x00, 0x00]

/-- The next state of an outcome. -/
def nextOf (o : Host.Outcome State Fault Refusal) : Option State :=
  match o with
  | .next t => some t
  | _ => none

/-- The fault of an outcome, with the state it leaves. -/
def raisedOf (o : Host.Outcome State Fault Refusal) : Option (FaultReason × State) :=
  match o with
  | .fault (.raised r left) => some (r, left)
  | _ => none

/-- The outcome is that the core takes no step. -/
def isStuck (o : Host.Outcome State Fault Refusal) : Bool :=
  match o with
  | .fault (.notRunning _) => true
  | _ => false

/-- The state one step later, the word placed at pc before it. -/
def ran (s : State) (word : Nat) : Option State := nextOf (step (s.withFetchWord 32 word))

/-- The step faults for this reason, and only pc (by 4) and the status change. -/
def faultsWithPcAdvanced (s : State) (r : FaultReason) : Bool :=
  raisedOf (step s) == some (r, { s with pc := s.pc + 4#64, status := .faulted r })

/-- The fetch faults for this reason, and only the status changes. -/
def fetchFaults (s : State) (r : FaultReason) : Bool :=
  raisedOf (step s) == some (r, { s with status := .faulted r })

/-- Each word decodes to its instruction, and its instruction encodes to it. -/
def agree (rows : List (InstWord × Instr)) : Bool :=
  rows.all fun p => decide (decodeWord true p.1 = .ok p.2) && decide (encode p.2 = p.1)

/-! ### WellFormed: an ill-formed term for each check, refused -/

theorem test_wellFormed_refuses_odd_branch_offset : Instr.wellFormed true (.beq 6 7 5) = false
    ∧ Instr.wellFormed true (.bne 6 7 1) = false ∧ Instr.wellFormed true (.blt 6 7 (-1)) = false
    ∧ Instr.wellFormed true (.bge 6 7 3) = false ∧ Instr.wellFormed true (.bltu 6 7 7) = false
    ∧ Instr.wellFormed true (.bgeu 6 7 9) = false := by decide

theorem test_wellFormed_refuses_odd_jal_offset : Instr.wellFormed true (.jal 1 17) = false := by decide

theorem test_wellFormed_refuses_mulw_without_hasMulw : Instr.wellFormed false (.mulw 5 6 7) = false := by decide

/-! ### Decoding and encoding: words of 95_test_vectors.md, every constructor -/

theorem test_decode_loads : agree
    [(0x00130283#32, .lb 5 6 1),
     (0x00231283#32, .lh 5 6 2),
     (0x00432283#32, .lw 5 6 4),
     (0x00833283#32, .ld 5 6 8),
     (0x00134283#32, .lbu 5 6 1),
     (0x00235283#32, .lhu 5 6 2),
     (0x00436283#32, .lwu 5 6 4)] = true := by decide

theorem test_decode_opImm : agree
    [(0xFFF30293#32, .addi 5 6 (-1)),
     (0xFFF32293#32, .slti 5 6 (-1)),
     (0x00133293#32, .sltiu 5 6 1),
     (0xFFF34293#32, .xori 5 6 (-1)),
     (0x70036293#32, .ori 5 6 0x700),
     (0xFF037293#32, .andi 5 6 (-16)),
     (0x03F31293#32, .slli 5 6 63),
     (0x03F35293#32, .srli 5 6 63),
     (0x40435293#32, .srai 5 6 4)] = true := by decide

theorem test_decode_opImm32 : agree
    [(0x0013029B#32, .addiw 5 6 1),
     (0x01F3129B#32, .slliw 5 6 31),
     (0x0043529B#32, .srliw 5 6 4),
     (0x4043529B#32, .sraiw 5 6 4)] = true := by decide

theorem test_decode_upperImmediates : agree
    [(0xFFFFF297#32, .auipc 5 0xFFFFF),
     (0x123452B7#32, .lui 5 0x12345)] = true := by decide

theorem test_decode_stores : agree
    [(0x00730423#32, .sb 7 6 8),
     (0x00731423#32, .sh 7 6 8),
     (0x007324A3#32, .sw 7 6 9),
     (0xFE702E23#32, .sw 7 0 (-4)),
     (0x00733423#32, .sd 7 6 8)] = true := by decide

theorem test_decode_amos : agree
    [(0x007322AF#32, .amoaddW 5 7 6 false false),
     (0x067322AF#32, .amoaddW 5 7 6 true true),
     (0x087322AF#32, .amoswapW 5 7 6 false false),
     (0x007332AF#32, .amoaddD 5 7 6 false false),
     (0x087332AF#32, .amoswapD 5 7 6 false false),
     (0x0863232F#32, .amoswapW 6 6 6 false false)] = true := by decide

theorem test_decode_op : agree
    [(0x007302B3#32, .add 5 6 7),
     (0x407302B3#32, .sub 5 6 7),
     (0x027302B3#32, .mul 5 6 7),
     (0x007312B3#32, .sll 5 6 7),
     (0x007322B3#32, .slt 5 6 7),
     (0x007332B3#32, .sltu 5 6 7),
     (0x007342B3#32, .xor 5 6 7),
     (0x007352B3#32, .srl 5 6 7),
     (0x407352B3#32, .sra 5 6 7),
     (0x007362B3#32, .or 5 6 7),
     (0x007372B3#32, .and 5 6 7)] = true := by decide

theorem test_decode_op32 : agree
    [(0x007302BB#32, .addw 5 6 7),
     (0x407302BB#32, .subw 5 6 7),
     (0x027302BB#32, .mulw 5 6 7),
     (0x007312BB#32, .sllw 5 6 7),
     (0x007352BB#32, .srlw 5 6 7),
     (0x407352BB#32, .sraw 5 6 7)] = true := by decide

theorem test_decode_branches : agree
    [(0xFE730EE3#32, .beq 6 7 (-4)),
     (0x80000063#32, .beq 0 0 (-4096)),
     (0x7E000FE3#32, .beq 0 0 4094),
     (0x00731463#32, .bne 6 7 8),
     (0x00734463#32, .blt 6 7 8),
     (0x00735463#32, .bge 6 7 8),
     (0x00736463#32, .bltu 6 7 8),
     (0x00737463#32, .bgeu 6 7 8)] = true := by decide

theorem test_decode_jumps : agree
    [(0x005300E7#32, .jalr 1 6 5),
     (0x010000EF#32, .jal 1 16),
     (0xFFDFF06F#32, .jal 0 (-4))] = true := by decide

theorem test_decode_system : agree
    [(0x340312F3#32, .csrrw 5 0x340 6),
     (0x340322F3#32, .csrrs 5 0x340 6),
     (0x340332F3#32, .csrrc 5 0x340 6),
     (0x340FD2F3#32, .csrrwi 5 0x340 31),
     (0x340FE2F3#32, .csrrsi 5 0x340 31),
     (0x340FF2F3#32, .csrrci 5 0x340 31),
     (0x10200073#32, .sret),
     (0x30200073#32, .mret),
     (0x12730073#32, .sfenceVma 6 7)] = true := by decide

/-- Fewer than four bytes decode to nothing, and four bytes leave the rest. -/
theorem test_decodeBytes : decodeBytes true [0x13#8, 0x03#8, 0xA0#8] = .error (.truncated 3)
    ∧ decodeBytes true [0x13#8, 0x03#8, 0xA0#8, 0x00#8, 0x7F#8] = .ok (.addi 6 0 10, [0x7F#8]) := by decide

/-- The table's numbering: a row's match value is the word, its operands 0. -/
theorem test_decodeTableWord : decodeTableWord 32 0x00000013 = some (.addi 0 0 0)
    ∧ decodeTableWord 32 0x30200073 = some .mret ∧ decodeTableWord 32 0 = none := by decide

/-! ### One step: the loads (V10 to V25) -/

theorem test_lb_V10 :
    (ran (withBytes (withRegs vectorCore [(6, base + 0x100#64)]) 0x100 loadBytes) 0x00130283).map (fun t => (t.readX 5, t.pc)) =
    some (0xffffffffffffff80#64, base + 0x4#64) := by decide

theorem test_lb_V22 :
    (ran (withBytes (withRegs vectorCore [(6, base + 0x100#64)]) 0x100 loadBytes) 0x00130003).map (fun t => (t.readX 0, t.pc)) =
    some (0x0#64, base + 0x4#64) := by decide

theorem test_lh_V12 :
    (ran (withBytes (withRegs vectorCore [(6, base + 0x100#64)]) 0x100 loadBytes) 0x00231283).map (fun t => (t.readX 5, t.pc)) =
    some (0xffffffffffff8234#64, base + 0x4#64) := by decide

theorem test_lh_V13 :
    (ran (withBytes (withRegs vectorCore [(6, base + 0x100#64)]) 0x100 loadBytes) 0x00131283).map (fun t => (t.readX 5, t.pc)) =
    some (0x3480#64, base + 0x4#64) := by decide

theorem test_lw_V24 : faultsWithPcAdvanced ((withRegs vectorCore [(6, base - 0x4#64)]).withFetchWord 32 0x00032283)
    (.unimplementedMMIO 0x7FFFFFFC#64) = true := by decide

theorem test_lw_V25 :
    faultsWithPcAdvanced ((withRegs vectorCore [(6, base + 0x100000000#64)]).withFetchWord 32 0x00032283)
    (.memOutOfRange 0x000180000000#64 0x4) = true := by decide

theorem test_ld_V17 :
    (ran (withBytes (withRegs vectorCore [(6, base + 0x100#64)]) 0x100 loadBytes) 0x00033283).map (fun t => (t.readX 5, t.pc)) =
    some (0xf234567882348001#64, base + 0x4#64) := by decide

theorem test_ld_V23 : faultsWithPcAdvanced ((withRegs vectorCore [(6, base + 0xfff9#64)]).withFetchWord 32 0x00033283)
    (.memOutOfRange 0x8000FFF9#64 0x8) = true := by decide

theorem test_lbu_V18 :
    (ran (withBytes (withRegs vectorCore [(6, base + 0x100#64)]) 0x100 loadBytes) 0x00134283).map (fun t => (t.readX 5, t.pc)) =
    some (0x80#64, base + 0x4#64) := by decide

theorem test_lhu_V19 :
    (ran (withBytes (withRegs vectorCore [(6, base + 0x100#64)]) 0x100 loadBytes) 0x00235283).map (fun t => (t.readX 5, t.pc)) =
    some (0x8234#64, base + 0x4#64) := by decide

theorem test_lwu_V20 :
    (ran (withBytes (withRegs vectorCore [(6, base + 0x100#64)]) 0x100 loadBytes) 0x00436283).map (fun t => (t.readX 5, t.pc)) =
    some (0xf2345678#64, base + 0x4#64) := by decide

/-! ### One step: the immediate ALU instructions (V27 to V53) -/

theorem test_addi_V27 : (ran (withRegs vectorCore [(6, 0x0#64)]) 0xFFF30293).map (fun t => (t.readX 5, t.pc)) =
    some (0xffffffffffffffff#64, base + 0x4#64) := by decide

theorem test_addi_V28 :
    (ran (withRegs vectorCore [(6, 0x7fffffffffffffff#64)]) 0x00130293).map (fun t => (t.readX 5, t.pc)) =
    some (0x8000000000000000#64, base + 0x4#64) := by decide

theorem test_slti_V30 :
    (ran (withRegs vectorCore [(6, 0x8000000000000000#64)]) 0xFFF32293).map (fun t => (t.readX 5, t.pc)) =
    some (0x1#64, base + 0x4#64) := by decide

theorem test_slti_V31 : (ran (withRegs vectorCore [(6, 0x0#64)]) 0xFFF32293).map (fun t => (t.readX 5, t.pc)) =
    some (0x0#64, base + 0x4#64) := by decide

theorem test_sltiu_V32 : (ran (withRegs vectorCore [(6, 0x5#64)]) 0xFFF33293).map (fun t => (t.readX 5, t.pc)) =
    some (0x1#64, base + 0x4#64) := by decide

theorem test_sltiu_V33 : (ran (withRegs vectorCore [(6, 0x0#64)]) 0x00133293).map (fun t => (t.readX 5, t.pc)) =
    some (0x1#64, base + 0x4#64) := by decide

theorem test_xori_V34 : (ran (withRegs vectorCore [(6, 0xf#64)]) 0xFFF34293).map (fun t => (t.readX 5, t.pc)) =
    some (0xfffffffffffffff0#64, base + 0x4#64) := by decide

theorem test_ori_V35 : (ran (withRegs vectorCore [(6, 0xf#64)]) 0x70036293).map (fun t => (t.readX 5, t.pc)) =
    some (0x70f#64, base + 0x4#64) := by decide

theorem test_andi_V36 : (ran (withRegs vectorCore [(6, 0x1234#64)]) 0xFF037293).map (fun t => (t.readX 5, t.pc)) =
    some (0x1230#64, base + 0x4#64) := by decide

theorem test_slli_V37 :
    (ran (withRegs vectorCore [(6, 0xf000000000000001#64)]) 0x00431293).map (fun t => (t.readX 5, t.pc)) =
    some (0x10#64, base + 0x4#64) := by decide

theorem test_slli_V38 : (ran (withRegs vectorCore [(6, 0x3#64)]) 0x03F31293).map (fun t => (t.readX 5, t.pc)) =
    some (0x8000000000000000#64, base + 0x4#64) := by decide

theorem test_srli_V39 : (ran (withRegs vectorCore [(6, 0x123#64)]) 0x00435293).map (fun t => (t.readX 5, t.pc)) =
    some (0x3000000000000012#64, base + 0x4#64) := by decide

theorem test_srli_V52 :
    (ran (withRegs (withCfg vectorCore { vectorCore.cfg with shift64Mode := .standard }) [(6, 0x123#64)]) 0x00435293).map (fun t => (t.readX 5)) =
    some (0x12#64) := by decide

theorem test_srai_V42 : (ran (withRegs vectorCore [(6, 0x123#64)]) 0x40435293).map (fun t => (t.readX 5, t.pc)) =
    some (0x3000000000000012#64, base + 0x4#64) := by decide

theorem test_srai_V43 :
    (ran (withRegs vectorCore [(6, 0x8000000000000123#64)]) 0x40435293).map (fun t => (t.readX 5, t.pc)) =
    some (0xf800000000000012#64, base + 0x4#64) := by decide

theorem test_addiw_V44 : (ran (withRegs vectorCore [(6, 0x7fffffff#64)]) 0x0013029B).map (fun t => (t.readX 5, t.pc)) =
    some (0xffffffff80000000#64, base + 0x4#64) := by decide

theorem test_addiw_V45 :
    (ran (withRegs vectorCore [(6, 0x123456789abcdef0#64)]) 0x0003029B).map (fun t => (t.readX 5, t.pc)) =
    some (0xffffffff9abcdef0#64, base + 0x4#64) := by decide

theorem test_slliw_V46 : (ran (withRegs vectorCore [(6, 0x40000001#64)]) 0x0013129B).map (fun t => (t.readX 5, t.pc)) =
    some (0xffffffff80000002#64, base + 0x4#64) := by decide

theorem test_slliw_V47 : (ran (withRegs vectorCore [(6, 0x3#64)]) 0x01F3129B).map (fun t => (t.readX 5, t.pc)) =
    some (0xffffffff80000000#64, base + 0x4#64) := by decide

theorem test_srliw_V48 : (ran (withRegs vectorCore [(6, 0x123#64)]) 0x0043529B).map (fun t => (t.readX 5, t.pc)) =
    some (0x30000012#64, base + 0x4#64) := by decide

theorem test_srliw_V53 :
    (ran (withRegs (withCfg vectorCore { vectorCore.cfg with shiftWMode := .standard }) [(6, 0x123#64)]) 0x0043529B).map (fun t => (t.readX 5)) =
    some (0x12#64) := by decide

theorem test_sraiw_V50 : (ran (withRegs vectorCore [(6, 0x80000123#64)]) 0x4043529B).map (fun t => (t.readX 5, t.pc)) =
    some (0xfffffffff8000012#64, base + 0x4#64) := by decide

theorem test_sraiw_V51 : (ran (withRegs vectorCore [(6, 0x123#64)]) 0x4043529B).map (fun t => (t.readX 5, t.pc)) =
    some (0x30000012#64, base + 0x4#64) := by decide

/-! ### One step: auipc and lui (V56 to V60) -/

theorem test_auipc_V56 : (ran vectorCore 0x00001297).map (fun t => (t.readX 5, t.pc)) =
    some (0x80001000#64, base + 0x4#64) := by decide

theorem test_auipc_V58 : (ran vectorCore 0xFFFFF297).map (fun t => (t.readX 5)) =
    some (0x7ffff000#64) := by decide

theorem test_lui_V59 : (ran vectorCore 0x800002B7).map (fun t => (t.readX 5)) =
    some (0xffffffff80000000#64) := by decide

theorem test_lui_V60 : (ran vectorCore 0x123452B7).map (fun t => (t.readX 5)) =
    some (0x12345000#64) := by decide

/-! ### One step: the stores (V61 to V68) -/

theorem test_sb_V61 :
    (ran (withRegs vectorCore [(6, base + 0x100#64), (7, 0x1122334455667788#64)]) 0x00730423).map (fun t => (readCells t.mem 0x108 8, t.pc)) =
    some ([0x88#8, 0x00#8, 0x00#8, 0x00#8, 0x00#8, 0x00#8, 0x00#8, 0x00#8], base + 0x4#64) := by decide

theorem test_sh_V62 :
    (ran (withRegs vectorCore [(6, base + 0x100#64), (7, 0x1122334455667788#64)]) 0x00731423).map (fun t => (readCells t.mem 0x108 8, t.pc)) =
    some ([0x88#8, 0x77#8, 0x00#8, 0x00#8, 0x00#8, 0x00#8, 0x00#8, 0x00#8], base + 0x4#64) := by decide

theorem test_sw_V66 :
    (ran (withRegs vectorCore [(6, 0x180000100#64), (7, 0x1122334455667788#64)]) 0x00732023).map (fun t => (readCells t.mem 0x100 4, t.pc)) =
    some ([0x88#8, 0x77#8, 0x66#8, 0x55#8], base + 0x4#64) := by decide

theorem test_sw_V67 :
    faultsWithPcAdvanced ((withRegs vectorCore [(7, 0x1122334455667788#64)]).withFetchWord 32 0xFE702E23)
    (.memOutOfRange 0xFFFFFFFC#64 0x4) = true := by decide

theorem test_sd_V64 :
    (ran (withRegs vectorCore [(6, base + 0x100#64), (7, 0x1122334455667788#64)]) 0x00733423).map (fun t => (readCells t.mem 0x108 8, t.pc)) =
    some ([0x88#8, 0x77#8, 0x66#8, 0x55#8, 0x44#8, 0x33#8, 0x22#8, 0x11#8], base + 0x4#64) := by decide

theorem test_sd_V68 : faultsWithPcAdvanced ((withRegs vectorCore [(6, base + 0xfffc#64)]).withFetchWord 32 0x00733023)
    (.memOutOfRange 0x8000FFFC#64 0x8) = true := by decide

/-! ### One step: the AMOs (V70 to V76) -/

theorem test_amoaddW_V70 :
    (ran (withBytes (withRegs vectorCore [(6, base + 0x100#64), (7, 0x100000001#64)]) 0x100 amoBytes) 0x007322AF).map (fun t => (t.readX 5, readCells t.mem 0x100 8, t.pc)) =
    some (0xffffffff#64, [0x00#8, 0x00#8, 0x00#8, 0x00#8, 0x80#8, 0x00#8, 0x00#8, 0x00#8], base + 0x4#64) := by decide

theorem test_amoaddW_V71 :
    (ran (withBytes (withRegs (withCfg vectorCore { vectorCore.cfg with amowRdExt := .sext }) [(6, base + 0x100#64), (7, 0x100000001#64)]) 0x100 amoBytes) 0x007322AF).map (fun t => (t.readX 5, readCells t.mem 0x100 8, t.pc)) =
    some (0xffffffffffffffff#64, [0x00#8, 0x00#8, 0x00#8, 0x00#8, 0x80#8, 0x00#8, 0x00#8, 0x00#8], base + 0x4#64) := by decide

theorem test_amoswapW_V73 :
    (ran (withBytes (withRegs vectorCore [(6, base + 0x100#64), (7, 0x100000001#64)]) 0x100 amoBytes) 0x087322AF).map (fun t => (t.readX 5, readCells t.mem 0x100 8, t.pc)) =
    some (0xffffffff#64, [0x01#8, 0x00#8, 0x00#8, 0x00#8, 0x80#8, 0x00#8, 0x00#8, 0x00#8], base + 0x4#64) := by decide

theorem test_amoswapW_V76 :
    (ran (withBytes (withRegs vectorCore [(6, base + 0x100#64), (7, 0x100000001#64)]) 0x100 amoBytes) 0x0863232F).map (fun t => (t.readX 6, readCells t.mem 0x100 8)) =
    some (0xffffffff#64, [0x00#8, 0x01#8, 0x00#8, 0x80#8, 0x80#8, 0x00#8, 0x00#8, 0x00#8]) := by decide

theorem test_amoaddD_V74 :
    (ran (withBytes (withRegs vectorCore [(6, base + 0x100#64), (7, 0x100000001#64)]) 0x100 amoBytes) 0x007332AF).map (fun t => (t.readX 5, readCells t.mem 0x100 8, t.pc)) =
    some (0x80ffffffff#64, [0x00#8, 0x00#8, 0x00#8, 0x00#8, 0x82#8, 0x00#8, 0x00#8, 0x00#8], base + 0x4#64) := by decide

theorem test_amoswapD_V75 :
    (ran (withBytes (withRegs vectorCore [(6, base + 0x100#64), (7, 0x100000001#64)]) 0x100 amoBytes) 0x087332AF).map (fun t => (t.readX 5, readCells t.mem 0x100 8, t.pc)) =
    some (0x80ffffffff#64, [0x01#8, 0x00#8, 0x00#8, 0x00#8, 0x01#8, 0x00#8, 0x00#8, 0x00#8], base + 0x4#64) := by decide

/-! ### One step: the register ALU instructions (V80 to V113) -/

theorem test_add_V80 :
    (ran (withRegs vectorCore [(6, 0xffffffffffffffff#64), (7, 0x2#64)]) 0x007302B3).map (fun t => (t.readX 5, t.pc)) =
    some (0x1#64, base + 0x4#64) := by decide

theorem test_add_V81 :
    (ran (withRegs vectorCore [(6, 0x7fffffffffffffff#64), (7, 0x1#64)]) 0x007302B3).map (fun t => (t.readX 5, t.pc)) =
    some (0x8000000000000000#64, base + 0x4#64) := by decide

theorem test_sub_V82 :
    (ran (withRegs vectorCore [(6, 0x0#64), (7, 0x1#64)]) 0x407302B3).map (fun t => (t.readX 5, t.pc)) =
    some (0xffffffffffffffff#64, base + 0x4#64) := by decide

theorem test_mul_V83 :
    (ran (withRegs vectorCore [(6, 0x100000000#64), (7, 0x100000001#64)]) 0x027302B3).map (fun t => (t.readX 5, t.pc)) =
    some (0x100000000#64, base + 0x4#64) := by decide

theorem test_mul_V85 :
    (ran (withRegs vectorCore [(6, 0xfffffffffffffffe#64), (7, 0x3#64)]) 0x027302B3).map (fun t => (t.readX 5, t.pc)) =
    some (0xfffffffffffffffa#64, base + 0x4#64) := by decide

theorem test_sll_V87 :
    (ran (withRegs vectorCore [(6, 0x8000000000000001#64), (7, 0x41#64)]) 0x007312B3).map (fun t => (t.readX 5, t.pc)) =
    some (0x3#64, base + 0x4#64) := by decide

theorem test_sll_V110 :
    (ran (withRegs (withCfg vectorCore { vectorCore.cfg with shift64Mode := .standard }) [(6, 0x8000000000000001#64), (7, 0x1#64)]) 0x007312B3).map (fun t => (t.readX 5)) =
    some (0x2#64) := by decide

theorem test_slt_V89 :
    (ran (withRegs vectorCore [(6, 0xffffffffffffffff#64), (7, 0x1#64)]) 0x007322B3).map (fun t => (t.readX 5, t.pc)) =
    some (0x1#64, base + 0x4#64) := by decide

theorem test_slt_V90 :
    (ran (withRegs vectorCore [(6, 0x5#64), (7, 0x5#64)]) 0x007322B3).map (fun t => (t.readX 5, t.pc)) =
    some (0x0#64, base + 0x4#64) := by decide

theorem test_sltu_V91 :
    (ran (withRegs vectorCore [(6, 0xffffffffffffffff#64), (7, 0x1#64)]) 0x007332B3).map (fun t => (t.readX 5, t.pc)) =
    some (0x0#64, base + 0x4#64) := by decide

theorem test_sltu_V92 :
    (ran (withRegs vectorCore [(6, 0x0#64), (7, 0x9#64)]) 0x007032B3).map (fun t => (t.readX 5, t.pc)) =
    some (0x1#64, base + 0x4#64) := by decide

theorem test_xor_V93 :
    (ran (withRegs vectorCore [(6, 0xff#64), (7, 0xf#64)]) 0x007342B3).map (fun t => (t.readX 5, t.pc)) =
    some (0xf0#64, base + 0x4#64) := by decide

theorem test_srl_V94 :
    (ran (withRegs vectorCore [(6, 0x1#64), (7, 0x1#64)]) 0x007352B3).map (fun t => (t.readX 5, t.pc)) =
    some (0x8000000000000000#64, base + 0x4#64) := by decide

theorem test_srl_V95 :
    (ran (withRegs vectorCore [(6, 0x123#64), (7, 0x4#64)]) 0x007352B3).map (fun t => (t.readX 5, t.pc)) =
    some (0x3000000000000012#64, base + 0x4#64) := by decide

theorem test_sra_V96 :
    (ran (withRegs vectorCore [(6, 0x8000000000000001#64), (7, 0x1#64)]) 0x407352B3).map (fun t => (t.readX 5, t.pc)) =
    some (0xc000000000000000#64, base + 0x4#64) := by decide

theorem test_sra_V97 :
    (ran (withRegs vectorCore [(6, 0x3#64), (7, 0x1#64)]) 0x407352B3).map (fun t => (t.readX 5, t.pc)) =
    some (0x8000000000000001#64, base + 0x4#64) := by decide

theorem test_or_V98 :
    (ran (withRegs vectorCore [(6, 0xf0#64), (7, 0xf#64)]) 0x007362B3).map (fun t => (t.readX 5, t.pc)) =
    some (0xff#64, base + 0x4#64) := by decide

theorem test_and_V99 :
    (ran (withRegs vectorCore [(6, 0xf0#64), (7, 0x3c#64)]) 0x007372B3).map (fun t => (t.readX 5, t.pc)) =
    some (0x30#64, base + 0x4#64) := by decide

theorem test_addw_V100 :
    (ran (withRegs vectorCore [(6, 0x7fffffff#64), (7, 0x1#64)]) 0x007302BB).map (fun t => (t.readX 5, t.pc)) =
    some (0xffffffff80000000#64, base + 0x4#64) := by decide

theorem test_addw_V101 :
    (ran (withRegs vectorCore [(6, 0xffffffff00000001#64), (7, 0x123400000001#64)]) 0x007302BB).map (fun t => (t.readX 5, t.pc)) =
    some (0x2#64, base + 0x4#64) := by decide

theorem test_subw_V102 :
    (ran (withRegs vectorCore [(6, 0x0#64), (7, 0x1#64)]) 0x407302BB).map (fun t => (t.readX 5, t.pc)) =
    some (0xffffffffffffffff#64, base + 0x4#64) := by decide

theorem test_mulw_V104 :
    (ran (withRegs vectorCore [(6, 0x10000#64), (7, 0x8000#64)]) 0x027302BB).map (fun t => (t.readX 5, t.pc)) =
    some (0xffffffff80000000#64, base + 0x4#64) := by decide

theorem test_mulw_V113 :
    faultsWithPcAdvanced ((withRegs (withCfg vectorCore { vectorCore.cfg with hasMulw := false }) [(6, 0x2#64), (7, 0x3#64)]).withFetchWord 32 0x027302BB)
    (.decodeFault 0x027302BB#32 0x3B#7) = true := by decide

theorem test_sllw_V106 :
    (ran (withRegs vectorCore [(6, 0x80000001#64), (7, 0x21#64)]) 0x007312BB).map (fun t => (t.readX 5, t.pc)) =
    some (0x3#64, base + 0x4#64) := by decide

theorem test_sllw_V112 :
    (ran (withRegs (withCfg vectorCore { vectorCore.cfg with shiftWMode := .standard }) [(6, 0x80000001#64), (7, 0x1#64)]) 0x007312BB).map (fun t => (t.readX 5)) =
    some (0x2#64) := by decide

theorem test_srlw_V107 :
    (ran (withRegs vectorCore [(6, 0x1#64), (7, 0x1#64)]) 0x007352BB).map (fun t => (t.readX 5, t.pc)) =
    some (0xffffffff80000000#64, base + 0x4#64) := by decide

theorem test_sraw_V108 :
    (ran (withRegs vectorCore [(6, 0x80000001#64), (7, 0x1#64)]) 0x407352BB).map (fun t => (t.readX 5, t.pc)) =
    some (0xffffffffc0000000#64, base + 0x4#64) := by decide

theorem test_sraw_V109 :
    (ran (withRegs vectorCore [(6, 0x3#64), (7, 0x1#64)]) 0x407352BB).map (fun t => (t.readX 5, t.pc)) =
    some (0xffffffff80000001#64, base + 0x4#64) := by decide

/-! ### One step: control transfer (V118 to V147) -/

theorem test_beq_V119 : (ran (withRegs vectorCore [(6, 0x5#64), (7, 0x5#64)]) 0xFE730EE3).map (fun t => (t.pc)) =
    some (base - 0x4#64) := by decide

theorem test_beq_V120 : (ran (withRegs vectorCore [(6, 0x5#64), (7, 0x6#64)]) 0x00730463).map (fun t => (t.pc)) =
    some (base + 0x4#64) := by decide

theorem test_bne_V121 : (ran (withRegs vectorCore [(6, 0x5#64), (7, 0x6#64)]) 0x00731463).map (fun t => (t.pc)) =
    some (base + 0x8#64) := by decide

theorem test_bne_V123 : (ran (withRegs vectorCore [(6, 0x5#64), (7, 0x5#64)]) 0x00731463).map (fun t => (t.pc)) =
    some (base + 0x4#64) := by decide

theorem test_blt_V124 :
    (ran (withRegs vectorCore [(6, 0xffffffffffffffff#64), (7, 0x1#64)]) 0x00734463).map (fun t => (t.pc)) =
    some (base + 0x8#64) := by decide

theorem test_blt_V126 :
    (ran (withRegs vectorCore [(6, 0x1#64), (7, 0xffffffffffffffff#64)]) 0x00734463).map (fun t => (t.pc)) =
    some (base + 0x4#64) := by decide

theorem test_bge_V127 :
    (ran (withRegs vectorCore [(6, 0x1#64), (7, 0xffffffffffffffff#64)]) 0x00735463).map (fun t => (t.pc)) =
    some (base + 0x8#64) := by decide

theorem test_bge_V129 :
    (ran (withRegs vectorCore [(6, 0xffffffffffffffff#64), (7, 0x1#64)]) 0x00735463).map (fun t => (t.pc)) =
    some (base + 0x4#64) := by decide

theorem test_bltu_V130 :
    (ran (withRegs vectorCore [(6, 0x1#64), (7, 0xffffffffffffffff#64)]) 0x00736463).map (fun t => (t.pc)) =
    some (base + 0x8#64) := by decide

theorem test_bltu_V132 :
    (ran (withRegs vectorCore [(6, 0xffffffffffffffff#64), (7, 0x1#64)]) 0x00736463).map (fun t => (t.pc)) =
    some (base + 0x4#64) := by decide

theorem test_bgeu_V133 :
    (ran (withRegs vectorCore [(6, 0xffffffffffffffff#64), (7, 0x1#64)]) 0x00737463).map (fun t => (t.pc)) =
    some (base + 0x8#64) := by decide

theorem test_bgeu_V135 :
    (ran (withRegs vectorCore [(6, 0x1#64), (7, 0xffffffffffffffff#64)]) 0x00737463).map (fun t => (t.pc)) =
    some (base + 0x4#64) := by decide

theorem test_jal_V140 : (ran vectorCore 0x010000EF).map (fun t => (t.readX 1, t.pc)) =
    some (0x80000004#64, base + 0x10#64) := by decide

theorem test_jal_V141 : (ran vectorCore 0xFFDFF06F).map (fun t => (t.pc)) =
    some (base - 0x4#64) := by decide

theorem test_jalr_V145 :
    (ran (withRegs (withCfg vectorCore { vectorCore.cfg with sequentialLink := true }) [(1, base + 0x100#64)]) 0x008080E7).map (fun t => (t.readX 1, t.pc)) =
    some (0x80000004#64, base + 0xc#64) := by decide

theorem test_jalr_V147 : (ran vectorCore 0x00000067).map (fun t => (t.pc, t.status)) =
    some (0x0#64, EngineStatus.halted) := by decide

/-! ### One step: the system instructions (V150 to V179) -/

theorem test_csrrw_V161 :
    (ran (withCsrs (withRegs (withCfg vectorCore { vectorCore.cfg with sequentialLink := true }) [(5, 0xaa#64)]) [(0x340, 0x55#64)]) 0x340292F3).map (fun t => (t.readX 5, t.csrSlot 0x340)) =
    some (0x55#64, 0x55#64) := by decide

theorem test_csrrw_V162 :
    (ran (withCsrs (withRegs vectorCore [(6, 0x3#64)]) [(0x303, 0xf#64), (0x304, 0xff#64)]) 0x104312F3).map (fun t => (t.readX 5, t.csrSlot 0x304, t.pc)) =
    some (0xf#64, 0xf3#64, base + 0x4#64) := by decide

theorem test_csrrs_V151 :
    (ran (withCsrs (withRegs vectorCore [(6, 0xf0#64)]) [(0x340, 0x3c#64)]) 0x340322F3).map (fun t => (t.readX 5, t.csrSlot 0x340, t.pc)) =
    some (0x3c#64, 0xfc#64, base + 0x4#64) := by decide

theorem test_csrrs_V163 :
    (ran (withCsrs vectorCore [(0x303, 0xf#64), (0x304, 0xf3#64)]) 0x104022F3).map (fun t => (t.readX 5, t.csrSlot 0x304)) =
    some (0x3#64, 0xf3#64) := by decide

theorem test_csrrc_V152 :
    (ran (withCsrs (withRegs vectorCore [(6, 0xf0#64)]) [(0x340, 0x3c#64)]) 0x340332F3).map (fun t => (t.readX 5, t.csrSlot 0x340, t.pc)) =
    some (0x3c#64, 0xc#64, base + 0x4#64) := by decide

theorem test_csrrwi_V155 :
    (ran (withCsrs (withRegs vectorCore [(6, 0x0#64)]) [(0x340, 0x3c0#64)]) 0x340FD2F3).map (fun t => (t.readX 5, t.csrSlot 0x340, t.pc)) =
    some (0x3c0#64, 0x1f#64, base + 0x4#64) := by decide

theorem test_csrrsi_V156 :
    (ran (withCsrs (withRegs vectorCore [(6, 0x0#64)]) [(0x340, 0x3c0#64)]) 0x340FE2F3).map (fun t => (t.readX 5, t.csrSlot 0x340, t.pc)) =
    some (0x3c0#64, 0x3df#64, base + 0x4#64) := by decide

theorem test_csrrci_V158 :
    (ran (withCsrs (withRegs vectorCore [(6, 0x0#64)]) [(0x340, 0x3ff#64)]) 0x340FF2F3).map (fun t => (t.readX 5, t.csrSlot 0x340, t.pc)) =
    some (0x3ff#64, 0x3e0#64, base + 0x4#64) := by decide

theorem test_sret_V167 :
    (ran ((withCsrs vectorCore [(0x100, 0x120#64), (0x141, base + 0x200#64)]).setMode .machine) 0x10200073).map (fun t => (t.pc, t.mode, t.csrSlot 0x100)) =
    some (base + 0x200#64, Mode.supervisor, 0x22#64) := by decide

theorem test_sret_V172 :
    (ran (withCsrs vectorCore [(0x100, 0x0#64), (0x141, 0x0#64)]) 0x10200073).map (fun t => (t.pc, t.mode, t.status)) =
    some (0x0#64, Mode.user, EngineStatus.halted) := by decide

theorem test_mret_V174 :
    (ran ((withCsrs vectorCore [(0x300, 0x880#64), (0x341, base + 0x40#64)]).setMode .machine) 0x30200073).map (fun t => (t.pc, t.mode, t.csrSlot 0x300)) =
    some (base + 0x40#64, Mode.supervisor, 0x88#64) := by decide

theorem test_mret_V176 :
    faultsWithPcAdvanced (((withCsrs vectorCore [(0x300, 0x1080#64), (0x341, base + 0x40#64)]).setMode .machine).withFetchWord 32 0x30200073)
    (.reservedMPP 0x1080#64) = true := by decide

theorem test_sfence_V179 : (ran (vectorCore.setMode .user) 0x12730073).map (fun t => (t.pc, t.mode)) =
    some (base + 0x4#64, Mode.user) := by decide

/-! ### Witnesses: the hypotheses of the statements, met by concrete states and operands -/

/-- A core with CSR contents, for the CSR statements. -/
def csrCore : State := withCsrs vectorCore [(0x303, 0x0F#64), (0x304, 0xFF#64), (0x340, 0x3C#64)]

/-- The core of the vectors under the literal order of the source's sentences. -/
def sequentialCore : State := withCfg csrCore { vectorCore.cfg with sequentialLink := true }

/-- The core of the vectors with MSTATUS and MPP2_BEHAVIOUR as given. -/
def mretCore (mstatus : Word) (b : Mpp2Behaviour) : State :=
  withCfg (withCsrs vectorCore [(0x300, mstatus), (0x341, base + 0x40#64)]) { vectorCore.cfg with mpp2Behaviour := b }

/-- A small configuration, for the bound on the image. -/
def smallCfg : Config := { Config.default with ramSize := 16, imageMargin := 2 }

/-- Draws that are not all zero. -/
def someDraws : Draws :=
  { gpr := Vector.replicate 32 7#64, fpr := Vector.replicate 32 9#64, csr := [(0x340, 5#64)], ram := [(3, 1#8), (15, 2#8)] }

theorem witness_DecodeOfEncodeIsIdentity : Instr.wellFormed true (.mulw 5 6 7) = true
    ∧ Instr.wellFormed false (.beq 6 7 (-4096)) = true ∧ Instr.wellFormed false (.jal 1 0xFFFFE) = true
    ∧ Instr.wellFormed false (.csrrw 5 0xFFF 31) = true := by decide

theorem witness_EncodeOfDecodeIsIdentity : decodeWord false 0x80000063#32 = .ok (.beq 0 0 (-4096))
    ∧ decodeWord true 0x027302BB#32 = .ok (.mulw 5 6 7) := by decide

theorem witness_DecodeAcceptsExactlyTheTableRows : decodeWord true 0x027302BB#32 = .ok (.mulw 5 6 7)
    ∧ mnemonicOf (.mulw 5 6 7) = "mulw" ∧ opcodeRows.length = 64
    ∧ (⟨"mulw", 0x0200003B#32, 0xFE00707F#32⟩ : OpcodeRow) ∈ opcodeRows
    ∧ 0x027302BB#32 &&& 0xFE00707F#32 = 0x0200003B#32 := by decide

theorem witness_StandardWordsOutsideTheSetAreRejected : 0x0000000F#32 ∈ unlistedWords ∧ 0x000000FF#32 ∈ unlistedWords := by
  decide

theorem witness_CompressedEncodingsAreRejected : (0x00004501#32).extractLsb' 0 2 ≠ 3#2
    ∧ (0x00000000#32).extractLsb' 0 2 ≠ 3#2 ∧ (0x0000000E#32).extractLsb' 0 2 ≠ 3#2 := by decide

/-- The last word of RAM is within it. -/
def lastWordCore : State := (vectorCore.setPc (base + 0xFFFC#64)).withFetchWord 32 0xFFF30293

theorem witness_StepRunsDecodedInstruction : lastWordCore.status = .running ∧ InRam lastWordCore lastWordCore.pc 4
    ∧ decodeWord lastWordCore.cfg.hasMulw (wordAtPc lastWordCore) = .ok (.addi 5 6 (-1)) := by
  unfold InRam
  decide

theorem witness_StepRunsThePlacedInstruction : vectorCore.wf = true ∧ vectorCore.status = .running
    ∧ InRam vectorCore vectorCore.pc 4 ∧ Instr.wellFormed vectorCore.cfg.hasMulw (.sd 7 6 (-8)) = true := by
  unfold InRam
  decide

/-- Below RAM by one byte, and past its end by one. -/
theorem witness_FetchFaultLeavesEverything : vectorCore.status = .running
    ∧ ¬ InRam (vectorCore.setPc (base - 1#64)) (base - 1#64) 4
    ∧ ¬ InRam (vectorCore.setPc (base + 0xFFFD#64)) (base + 0xFFFD#64) 4 := by
  unfold InRam
  decide

/-- V191 and V192. -/
theorem test_fetch_faults : fetchFaults (vectorCore.setPc (base - 4#64)) (.unimplementedMMIO 0x7FFFFFFC#64) = true
    ∧ fetchFaults (vectorCore.setPc (base + 0xFFFE#64)) (.memOutOfRange 0x8000FFFE#64 4) = true := by decide

/-- RAM of zeros, whose word is no instruction. -/
theorem witness_UnlistedWordIsADecodeFault : vectorCore.status = .running ∧ InRam vectorCore vectorCore.pc 4
    ∧ ∀ row ∈ opcodeRows, wordAtPc vectorCore &&& row.mask = row.bits →
        row.mnemonic = "mulw" ∧ vectorCore.cfg.hasMulw = false := by
  unfold InRam
  decide

/-- The word of mulw on a core without it. -/
theorem witness_UnlistedWordIsADecodeFault_mulw :
    let s := (withCfg vectorCore { vectorCore.cfg with hasMulw := false }).withFetchWord 32 0x027302BB
    s.status = .running ∧ InRam s s.pc 4 ∧ wordAtPc s = 0x027302BB#32
    ∧ ∀ row ∈ opcodeRows, 0x027302BB#32 &&& row.mask = row.bits → row.mnemonic = "mulw" ∧ s.cfg.hasMulw = false := by
  unfold InRam
  decide

/-- A step that halts (V147), one that does not, and one that faults. -/
theorem witness_HaltExactlyAtPcZero : vectorCore.status = .running
    ∧ InRam (vectorCore.withFetchWord 32 0x00000067) base 4
    ∧ decodeWord true (wordAtPc (vectorCore.withFetchWord 32 0x00000067)) = .ok (.jalr 0 0 0)
    ∧ (ran vectorCore 0x00000067).map (fun t => (t.pc, t.status)) = some (0#64, .halted)
    ∧ (ran vectorCore 0x00000013).map (fun t => (t.pc, t.status)) = some (base + 4#64, .running)
    ∧ (raisedOf (step vectorCore)).map (fun p => p.2.status) = some (.faulted (.decodeFault 0#32 0#7)) := by
  unfold InRam
  decide

theorem witness_NoStepFromATerminalState :
    (vectorCore.setStatus .halted).status ≠ .running ∧ isStuck (step (vectorCore.setStatus .halted)) = true
    ∧ (vectorCore.setStatus (.faulted (.decodeFault 0#32 0#7))).status ≠ .running
    ∧ isStuck (step (vectorCore.setStatus (.faulted (.decodeFault 0#32 0#7)))) = true := by decide

/-- For FaultsLeaveOnlyThePcAdvance and StepFaultsAreTheNamedOnes: a fetch fault, a decode fault, an access fault and
the reserved MPP. -/
theorem witness_StepFaults :
    (raisedOf (step (vectorCore.setPc 0#64))).map (fun p => p.1) = some (.unimplementedMMIO 0#64)
    ∧ (raisedOf (step vectorCore)).map (fun p => p.1) = some (.decodeFault 0#32 0#7)
    ∧ (raisedOf (step (vectorCore.withFetchWord 32 0x00032283))).map (fun p => p.1) = some (.unimplementedMMIO 0#64)
    ∧ (raisedOf (step ((mretCore 0x1080#64 .fault).withFetchWord 32 0x30200073))).map (fun p => p.1)
        = some (.reservedMPP 0x1080#64) := by decide

theorem witness_RegisterFileReadsBack : (31#5 : RegIx) ≠ 0#5 ∧ (1#5 : RegIx) ≠ 0#5
    ∧ (vectorCore.writeX 31 5#64).readX 31 = 5#64 ∧ (vectorCore.writeX 0 5#64).readX 0 = 0#64 := by decide

/-- The first and the last CSR, the two beside the alias, and a read-only address of the standard (V5d). -/
theorem witness_CsrReadsBack : csrCore.wf = true ∧ (0x000#12 : CsrAddr) ≠ 0x104#12 ∧ (0xFFF#12 : CsrAddr) ≠ 0x104#12
    ∧ (0x103#12 : CsrAddr) ≠ 0x104#12 ∧ (0x105#12 : CsrAddr) ≠ 0x104#12
    ∧ (csrCore.csrWrite 0xC00 5#64).csrRead 0xC00 = 5#64
    ∧ (csrCore.csrWrite 0x100 2#64).csrRead 0x300 = csrCore.csrRead 0x300 := by decide

/-- V3a and V3b. -/
theorem witness_SieIsAnAliasOfMie : csrCore.wf = true ∧ (csrCore.csrWrite 0x104 3#64).csrSlot 0x304 = 0xF3#64
    ∧ (csrCore.csrWrite 0x104 3#64).csrRead 0x104 = 3#64 := by decide

/-- The first byte, the last bytes, one byte below and one byte too far. -/
theorem witness_BusTranslatesOrFaults : InRam vectorCore base 8 ∧ InRam vectorCore (base + 0xFFF8#64) 8
    ∧ InRam vectorCore (base + 0xFFFF#64) 1 ∧ ¬ InRam vectorCore (base - 1#64) 2
    ∧ ¬ InRam vectorCore (base + 0xFFF9#64) 8 ∧ ¬ InRam vectorCore (base + 0x10000#64) 1
    ∧ ((24 : Nat) ≠ 8 ∧ (24 : Nat) ≠ 16 ∧ (24 : Nat) ≠ 32 ∧ (24 : Nat) ≠ 64)
    ∧ ((0 : Nat) ≠ 8 ∧ (0 : Nat) ≠ 16 ∧ (0 : Nat) ≠ 32 ∧ (0 : Nat) ≠ 64) := by
  unfold InRam
  decide

/-- A refused size at an address outside RAM, below it and past its end: the size is reported (log entry 15); a size
that is accepted reports the address there. -/
theorem witness_BusTranslatesOrFaults_badSizeOutsideRam :
    (base - 1#64).toNat < vectorCore.cfg.ramBase.toNat ∧ ¬ InRam vectorCore (base + 0x10000#64) 3
    ∧ vectorCore.busLoad (base - 1#64) 24 = .error (.contractViolation (.accessSize 24))
    ∧ vectorCore.busLoad (base + 0x10000#64) 24 = .error (.contractViolation (.accessSize 24))
    ∧ vectorCore.busLoad (base - 1#64) 16 = .error (.unimplementedMMIO (base - 1#64))
    ∧ vectorCore.busLoad (base + 0x10000#64) 16 = .error (.memOutOfRange (base + 0x10000#64) 2) := by
  unfold InRam
  decide

theorem witness_MemReadIsLittleEndian : InRam vectorCore (base + 0x100#64) 8
    ∧ InRam vectorCore (base + 0xFFFC#64) 4 := by
  unfold InRam
  decide

theorem witness_MemWriteSetsExactlyItsBytes : vectorCore.wf = true ∧ InRam vectorCore base 1
    ∧ InRam vectorCore (base + 0xFFFE#64) 2 := by
  unfold InRam
  decide

/-- V4d on the Bus. -/
theorem witness_StoredBytesReadBack : vectorCore.wf = true ∧ InRam vectorCore (base + 0x100#64) 8
    ∧ InRam vectorCore (base + 0xFFF8#64) 8 := by
  unfold InRam
  decide

/-- A constructed core, or the reset state where the image does not fit. -/
def constructed (cfg : Config) (d : Draws) (image : List Byte) : State :=
  match State.construct cfg d image with
  | .ok t => t
  | .error _ => State.reset

/-- For ConstructionMeetsTheInvariant and ConstructionLaysOutTheCore: an image that fills RAM but for the margin. -/
theorem witness_Construction : smallCfg.wf = true ∧ someDraws.wf smallCfg.ramSize = true
    ∧ State.construct smallCfg someDraws (List.replicate 14 0xAA#8)
        = .ok (constructed smallCfg someDraws (List.replicate 14 0xAA#8))
    ∧ (constructed smallCfg someDraws (List.replicate 14 0xAA#8)).ramByte 13 = 0xAA#8
    ∧ (constructed smallCfg someDraws (List.replicate 14 0xAA#8)).ramByte 15 = 2#8
    ∧ (constructed smallCfg someDraws []).ramByte 3 = 1#8 := by decide

/-- One byte more is refused, and so is an image of the whole of RAM (V9e; 90_conflicts.md C3). -/
theorem witness_ConstructionAcceptsExactlyFittingImages : smallCfg.wf = true
    ∧ (List.replicate 14 0#8).length + smallCfg.imageMargin ≤ smallCfg.ramSize
    ∧ smallCfg.ramSize < (List.replicate 15 0#8).length + smallCfg.imageMargin
    ∧ smallCfg.ramSize ≤ (List.replicate 16 0#8).length
    ∧ State.construct smallCfg someDraws (List.replicate 15 0#8) = .error (.imageTooLarge 15) := by decide

/-- A state that meets the invariant takes a step, and one faults. -/
theorem witness_StepKeepsTheInvariant : vectorCore.wf = true ∧ (ran vectorCore 0x00500513).isSome = true
    ∧ (raisedOf (step vectorCore)).isSome = true := by decide

theorem witness_StepKeepsParametersAndFpRegisters : (ran vectorCore 0x00500513).map (fun t => t.cfg) = some vectorCore.cfg := by
  decide

/-- sret, an instruction that leaves the mode, mret with MPP = 2 under another setting of the switch, and the fault. -/
theorem witness_ModeFollowsOnlyTrapReturns : (nextOf (exec .sret csrCore)).map (fun t => t.mode) = some .user
    ∧ (nextOf (exec (.addi 5 6 1) csrCore)).map (fun t => t.mode) = some .machine
    ∧ (nextOf (exec .mret (mretCore 0x1080#64 .supervisor))).map (fun t => t.mode) = some .supervisor
    ∧ (mretCore 0x1080#64 .fault).cfg.mpp2Behaviour = .fault
    ∧ ((mretCore 0x1080#64 .fault).csrRead 0x300#12).extractLsb' 11 2 = 2#2 := by decide

/-- An instruction with a destination, one that writes no CSR and no RAM, and one that stores. -/
theorem witness_EveryInstructionKeepsItsFrame : (nextOf (exec (.addi 5 6 1) vectorCore)).isSome = true
    ∧ destOf (.addi 5 6 1) ≠ some 4#5 ∧ destOf .mret = none ∧ writesCsr (.addi 5 6 1) = false
    ∧ writesRam (.csrrw 5 0x340 6) = false
    ∧ (nextOf (exec (.sb 7 2 (-1)) (withRegs vectorCore [(2, base + 0x10000#64)]))).isSome = true
    ∧ accessOf (withRegs vectorCore [(2, base + 0x10000#64)]) (.sb 7 2 (-1)) = some (base + 0xFFFF#64, 1) := by decide

/-- A branch taken backwards (V119) and an instruction that falls through. -/
theorem witness_PcAfterNormalExecution :
    let s := vectorCore.withFetchWord 32 0xFE730EE3
    s.status = .running ∧ InRam s s.pc 4 ∧ decodeWord s.cfg.hasMulw (wordAtPc s) = .ok (.beq 6 7 (-4))
    ∧ (nextOf (step s)).map (fun t => t.pc) = some (base - 4#64) := by
  unfold InRam
  decide

/-- A core whose RAM reaches past 4 GiB, x6 the address of a store and x7 its value. -/
def bigCore (a : Word) : State := withCfg (withRegs vectorCore [(6, a), (7, 0x1122334455667788#64)])
  { vectorCore.cfg with ramSize := 0x200000000 }

/-- Offset 0x80000000 is address 2^32. A base register above 2^32 stores into the low alias; a store of each width at
the last address of the window leaves the byte 2^32 + n - 1, the first the statement names. -/
theorem witness_StoreAddressesStayBelow4GiB : (bigCore 0xFFFFFFFF#64).wf = true
    ∧ (bigCore 0x180000100#64).storeAddr 6 0 = 0x80000100#64
    ∧ (bigCore 0#64).storeAddr 6 0xFFF = 0xFFFFFFFF#64
    ∧ (nextOf (exec (.sb 7 6 0) (bigCore 0xFFFFFFFF#64))).map (fun t => (t.ramByte 0x7FFFFFFF, t.ramByte 0x80000000))
        = some (0x88#8, 0#8)
    ∧ (nextOf (exec (.sh 7 6 0) (bigCore 0xFFFFFFFF#64))).map (fun t => (t.ramByte 0x80000000, t.ramByte 0x80000001))
        = some (0x77#8, 0#8)
    ∧ (nextOf (exec (.sw 7 6 0) (bigCore 0xFFFFFFFF#64))).map (fun t => (t.ramByte 0x80000002, t.ramByte 0x80000003))
        = some (0x55#8, 0#8)
    ∧ (nextOf (exec (.sd 7 6 0) (bigCore 0xFFFFFFFF#64))).map (fun t => (t.ramByte 0x80000006, t.ramByte 0x80000007))
        = some (0x11#8, 0#8)
    ∧ 2 ^ 32 ≤ (bigCore 0xFFFFFFFF#64).cfg.ramBase.toNat + 0x80000000
    ∧ 2 ^ 32 + 7 ≤ (bigCore 0xFFFFFFFF#64).cfg.ramBase.toNat + 0x80000007 := by decide

/-- P7: the store of the next word. -/
theorem witness_StoreIsSeenByTheNextFetch :
    let s := withRegs vectorCore [(5, base), (6, 0x67#64)]
    s.wf = true ∧ (nextOf (exec (.sw 6 5 0) s)).isSome = true ∧ s.storeAddr 5 0 = s.pc := by decide

/-- A core whose x6 is the last address at which a load of 1, 2, 4 or 8 bytes ends in RAM, or one more. -/
def edgeCore (a : Word) : State := withRegs vectorCore [(6, a)]

/-- For SignedLoadsExtendTheSign and UnsignedLoadsExtendWithZeros: the edges of RAM for each width. -/
theorem witness_Loads : InRam (edgeCore base) (wordOfInt (((edgeCore base).readX 6).toInt + (0#12).toInt)) 8
    ∧ InRam (edgeCore (base + 0xFFFF#64)) (wordOfInt (((edgeCore (base + 0xFFFF#64)).readX 6).toInt + (0#12).toInt)) 1
    ∧ InRam (edgeCore (base + 0xFFFF#64)) (wordOfInt (((edgeCore (base + 0xFFFF#64)).readX 6).toInt + (0xFFF#12).toInt)) 2
    ∧ InRam (edgeCore (base + 0xFFFC#64)) (wordOfInt (((edgeCore (base + 0xFFFC#64)).readX 6).toInt + (0#12).toInt)) 4
    ∧ InRam (edgeCore (base + 0xFFF8#64)) (wordOfInt (((edgeCore (base + 0xFFF8#64)).readX 6).toInt + (0#12).toInt)) 8
    ∧ ¬ InRam (edgeCore base) (wordOfInt (((edgeCore base).readX 6).toInt + (0xFFF#12).toInt)) 1
    ∧ ¬ InRam (edgeCore (base + 0xFFFF#64)) (wordOfInt (((edgeCore (base + 0xFFFF#64)).readX 6).toInt + (0#12).toInt)) 2
    ∧ ¬ InRam (edgeCore (base + 0xFFFD#64)) (wordOfInt (((edgeCore (base + 0xFFFD#64)).readX 6).toInt + (0#12).toInt)) 4
    ∧ ¬ InRam (edgeCore (base + 0xFFF9#64)) (wordOfInt (((edgeCore (base + 0xFFF9#64)).readX 6).toInt + (0#12).toInt)) 8 := by
  unfold InRam
  decide

/-- The edges of RAM for each width, one address above 2^32 that the mask brings back. -/
theorem witness_StoresWriteTheLowBytes : (edgeCore base).wf = true
    ∧ InRam (edgeCore (base + 0x10000FFFF#64)) ((edgeCore (base + 0x10000FFFF#64)).storeAddr 6 0#12) 1
    ∧ InRam (edgeCore (base + 0xFFFE#64)) ((edgeCore (base + 0xFFFE#64)).storeAddr 6 0#12) 2
    ∧ InRam (edgeCore (base + 0xFFFC#64)) ((edgeCore (base + 0xFFFC#64)).storeAddr 6 0#12) 4
    ∧ InRam (edgeCore (base + 0xFFF8#64)) ((edgeCore (base + 0xFFF8#64)).storeAddr 6 0#12) 8
    ∧ ¬ InRam (edgeCore base) ((edgeCore base).storeAddr 6 0xFFF#12) 1
    ∧ ¬ InRam (edgeCore (base + 0xFFFF#64)) ((edgeCore (base + 0xFFFF#64)).storeAddr 6 0#12) 2
    ∧ ¬ InRam (edgeCore (base + 0xFFFD#64)) ((edgeCore (base + 0xFFFD#64)).storeAddr 6 0#12) 4
    ∧ ¬ InRam (edgeCore (base + 0xFFF9#64)) ((edgeCore (base + 0xFFF9#64)).storeAddr 6 0#12) 8 := by
  unfold InRam
  decide

/-- Log entry 16: sd at 0xFFFFFFFC in a RAM that crosses 2^32, and at 0xFFFFFFF8, the last address where it does not
reach 2^32. -/
theorem witness_StoresWriteTheLowBytes_top : (bigCore 0xFFFFFFFC#64).wf = true
    ∧ InRam (bigCore 0xFFFFFFFC#64) ((bigCore 0xFFFFFFFC#64).storeAddr 6 0#12) 8
    ∧ (nextOf (exec (.sd 7 6 0) (bigCore 0xFFFFFFFC#64))).map (fun t => (t.ramByte 0x7FFFFFFC, t.ramByte 0x80000000,
        t.ramByte 0x80000003, t.ramByte 0x80000004)) = some (0x88#8, 0x44#8, 0x11#8, 0#8)
    ∧ InRam (bigCore 0xFFFFFFF8#64) ((bigCore 0xFFFFFFF8#64).storeAddr 6 0#12) 8
    ∧ (nextOf (exec (.sd 7 6 0) (bigCore 0xFFFFFFF8#64))).map (fun t => (t.ramByte 0x7FFFFFFF, t.ramByte 0x80000000))
        = some (0x11#8, 0#8) := by
  unfold InRam
  decide

/-- For WordAmosReturnTheOldValue and DoublewordAmosReturnTheOldValue: the edges of RAM. -/
theorem witness_Amos : (edgeCore base).wf = true
    ∧ InRam (edgeCore (base + 0xFFFC#64)) ((edgeCore (base + 0xFFFC#64)).readX 6) 4
    ∧ InRam (edgeCore (base + 0xFFF8#64)) ((edgeCore (base + 0xFFF8#64)).readX 6) 8
    ∧ ¬ InRam (edgeCore (base - 1#64)) ((edgeCore (base - 1#64)).readX 6) 4
    ∧ ¬ InRam (edgeCore (base + 0xFFFD#64)) ((edgeCore (base + 0xFFFD#64)).readX 6) 4
    ∧ ¬ InRam (edgeCore (base + 0xFFF9#64)) ((edgeCore (base + 0xFFF9#64)).readX 6) 8 := by
  unfold InRam
  decide

/-- Shift amounts at both ends of their range, for both widths. -/
theorem witness_QuirkShiftsRotateBits : (0 : Nat) < 64 ∧ (63 : Nat) < 64 ∧ (31 : Nat) < 32
    ∧ (0x8000000000000001#64).getLsbD (64 - 1) = true ∧ (0x7FFFFFFF#32).getLsbD (32 - 1) = false := by decide

theorem witness_CsrRegisterForms : csrCore.wf = true ∧ csrCore.cfg.sequentialLink = false := by decide

theorem witness_CsrRegisterFormsSequential : sequentialCore.wf = true ∧ sequentialCore.cfg.sequentialLink = true := by decide

theorem witness_CsrImmediateForms : csrCore.wf = true ∧ sequentialCore.wf = true := by decide

/-- SPP 1 and SPP 0 (V167, V168). -/
theorem witness_SretRestoresFromSstatus : (withCsrs vectorCore [(0x100, 0x120#64)]).wf = true
    ∧ ((withCsrs vectorCore [(0x100, 0x120#64)]).csrRead 0x100#12).getLsbD 8 = true
    ∧ (withCsrs vectorCore [(0x100, 0x2#64)]).wf = true
    ∧ ((withCsrs vectorCore [(0x100, 0x2#64)]).csrRead 0x100#12).getLsbD 8 = false := by decide

/-- Every MPP, and MPP 2 under each setting of MPP2_BEHAVIOUR. -/
theorem witness_MretRestoresFromMstatus : (mretCore 0x80#64 .fault).wf = true
    ∧ ((mretCore 0x80#64 .fault).csrRead 0x300#12).extractLsb' 11 2 = 0#2
    ∧ ((mretCore 0x880#64 .fault).csrRead 0x300#12).extractLsb' 11 2 = 1#2
    ∧ ((mretCore 0x1880#64 .fault).csrRead 0x300#12).extractLsb' 11 2 = 3#2
    ∧ ((mretCore 0x1080#64 .user).csrRead 0x300#12).extractLsb' 11 2 = 2#2
    ∧ (mretCore 0x1080#64 .user).cfg.mpp2Behaviour ≠ .fault
    ∧ (nextOf (exec .mret (mretCore 0x1080#64 .user))).map (fun t => t.mode) = some .user
    ∧ (nextOf (exec .mret (mretCore 0x1080#64 .supervisor))).map (fun t => t.mode) = some .supervisor
    ∧ (nextOf (exec .mret (mretCore 0x1080#64 .machine))).map (fun t => t.mode) = some .machine
    ∧ (mretCore 0x1080#64 .fault).wf = true ∧ (mretCore 0x1080#64 .fault).cfg.mpp2Behaviour = .fault
    ∧ ((mretCore 0x1080#64 .fault).csrRead 0x300#12).extractLsb' 11 2 = 2#2 := by decide

/-- A run that halts after one step, one that faults, and one that is still Running when the fuel is out. -/
theorem witness_RunsEndOnlyHaltedOrFaulted :
    (vectorCore.withFetchWord 32 0x00000067).run 1
      = .halted ({ vectorCore.withFetchWord 32 0x00000067 with pc := 0#64, status := .halted })
    ∧ vectorCore.run 1 = .faulted (.decodeFault 0#32 0#7)
        { vectorCore with pc := base + 4#64, status := .faulted (.decodeFault 0#32 0#7) }
    ∧ (vectorCore.withFetchWord 32 0x0000006F).run 2 = .outOfFuel (vectorCore.withFetchWord 32 0x0000006F)
    ∧ (nextOf (step (vectorCore.withFetchWord 32 0x0000006F))).map (fun t => t.status) = some .running
    ∧ (vectorCore.setStatus .halted).status ≠ .running
    ∧ (vectorCore.setStatus .halted).run 1 = .noTransition (vectorCore.setStatus .halted) := by decide

/-- A word that decodes, a word that does not, a pc outside RAM and a core that is not Running. -/
theorem witness_TraceNamesTheInstructionStepRuns :
    let s := vectorCore.withFetchWord 32 0x00500513
    s.status = .running ∧ InRam s s.pc 4 ∧ decodeWord s.cfg.hasMulw (wordAtPc s) = .ok (.addi 10 0 5)
    ∧ s.traceOf = some { pc := base, raw := 0x00500513#32, mnemonic := "addi" }
    ∧ decodeWord vectorCore.cfg.hasMulw (wordAtPc vectorCore) = .error (.unknownOpcode 0#7) ∧ vectorCore.traceOf = none
    ∧ ¬ InRam (s.setPc 0#64) 0#64 4 ∧ (s.setPc 0#64).traceOf = none
    ∧ (s.setStatus .halted).status ≠ .running ∧ (s.setStatus .halted).traceOf = none := by
  unfold InRam
  decide

/-- The selector fields of one word for each instruction with a decoding clause of its own form: the loads and OP-IMM
(funct3), the 64-bit and 32-bit shifts, the stores, the AMOs, OP and OP-32, the branches. -/
theorem witness_selectors : (opcodeOf 0x00130283#32, funct3Of 0x00130283#32) = (0x03#7, 0#3)
    ∧ (opcodeOf 0x00436283#32, funct3Of 0x00436283#32) = (0x03#7, 6#3)
    ∧ (opcodeOf 0xFF037293#32, funct3Of 0xFF037293#32) = (0x13#7, 7#3)
    ∧ (opcodeOf 0x03F31293#32, funct3Of 0x03F31293#32, funct6Of 0x03F31293#32) = (0x13#7, 1#3, 0x00#6)
    ∧ (opcodeOf 0x43F35293#32, funct3Of 0x43F35293#32, funct6Of 0x43F35293#32) = (0x13#7, 5#3, 0x10#6)
    ∧ (opcodeOf 0x4043529B#32, funct3Of 0x4043529B#32, funct7Of 0x4043529B#32) = (0x1b#7, 5#3, 0x20#7)
    ∧ (opcodeOf 0xFFFFF297#32, opcodeOf 0x123452B7#32) = (0x17#7, 0x37#7)
    ∧ (opcodeOf 0x00733423#32, funct3Of 0x00733423#32) = (0x23#7, 3#3)
    ∧ (opcodeOf 0x067322AF#32, funct3Of 0x067322AF#32, funct5Of 0x067322AF#32) = (0x2f#7, 2#3, 0x00#5)
    ∧ (opcodeOf 0x087332AF#32, funct3Of 0x087332AF#32, funct5Of 0x087332AF#32) = (0x2f#7, 3#3, 0x01#5)
    ∧ (opcodeOf 0x027302B3#32, funct3Of 0x027302B3#32, funct7Of 0x027302B3#32) = (0x33#7, 0#3, 0x01#7)
    ∧ (opcodeOf 0x027302BB#32, funct3Of 0x027302BB#32, funct7Of 0x027302BB#32) = (0x3b#7, 0#3, 0x01#7)
    ∧ (opcodeOf 0x00737463#32, funct3Of 0x00737463#32) = (0x63#7, 7#3)
    ∧ (opcodeOf 0x005300E7#32, funct3Of 0x005300E7#32) = (0x67#7, 0#3)
    ∧ opcodeOf 0xFFDFF06F#32 = 0x6f#7
    ∧ (opcodeOf 0x340312F3#32, funct3Of 0x340312F3#32) = (0x73#7, 1#3)
    ∧ (opcodeOf 0x340FF2F3#32, funct3Of 0x340FF2F3#32) = (0x73#7, 7#3)
    ∧ (opcodeOf 0x12730073#32, funct3Of 0x12730073#32, funct7Of 0x12730073#32, rdOf 0x12730073#32)
        = (0x73#7, 0#3, 0x09#7, 0#5) := by decide

/-- The source's own example (V1a), one step at a time from construction: x30 = 5 after the first step. -/
theorem test_construction_then_first_step :
    (nextOf (step (constructed vectorCore.cfg Draws.zero [0x13#8, 0x0F#8, 0x50#8, 0x00#8]))).map
      (fun t => (t.readX 30, t.readX 2, t.pc)) = some (5#64, base + 0x10000#64, base + 4#64) := by decide

/-- withFetchWord puts its bytes where the fetch reads them and drops what lies past the end of RAM. -/
theorem test_withFetchWord : (State.reset.withFetchWord 32 0x00500513).mem = [(0, 0x13#8), (1, 0x05#8), (2, 0x50#8)]
    ∧ ((vectorCore.setPc (base + 0xFFFE#64)).withFetchWord 32 0xFFFFFFFF).mem = [(0xFFFE, 0xFF#8), (0xFFFF, 0xFF#8)] := by
  decide

end Sys2Proof.Tests
end

/-! ## The state of the core (10_state.md): the register file and the CSR bank read back

Reads and writes of the two banks, in the form later proofs rewrite with, and the three statements about them. -/

namespace Sys2Proof.Machine

/-! ### Integer registers -/

theorem readX_of_ne_zero (s : State) (q : RegIx) (h : q ≠ 0#5) : s.readX q = s.x[q.toNat]'q.isLt := if_neg h

@[simp] theorem writeX_zero (s : State) (v : Word) : s.writeX 0#5 v = s := rfl

/-- Settles O15: a register write seen by a register read is `readX_writeX`; x0 is cut off by both operations. -/
theorem registerFileReadsBack : Obligations.RegisterFileReadsBack := fun s v =>
  ⟨readX_zero s, writeX_zero s v, readX_of_ne_zero s, fun r q => readX_writeX s r q v⟩

/-! ### CSR bank -/

theorem csrBankWf_of_wf {s : State} (h : s.wf = true) : CsrBank.wf s.csr = true := by
  obtain ⟨-, -, hcsr, -⟩ := (wf_iff s).mp h
  exact hcsr

@[simp] theorem csrRead_sie (s : State) : s.csrRead 0x104#12 = s.csrSlot 0x304#12 &&& s.csrSlot 0x303#12 := rfl

theorem csrRead_of_ne_sie (s : State) (a : CsrAddr) (h : a ≠ 0x104#12) : s.csrRead a = s.csrSlot a := if_neg h

/-- `csr_write` touches nothing outside the CSR bank. -/
theorem csrWrite_eq_with_csr (s : State) (a : CsrAddr) (v : Word) :
    s.csrWrite a v = { s with csr := (s.csrWrite a v).csr } := by
  unfold State.csrWrite
  split <;> rfl

/-- Writing `v` into the bits of `x` selected by `m` and reading those bits gives `v` there. -/
theorem merge_and_mask {w : Nat} (x m v : BitVec w) : ((x &&& ~~~m) ||| (v &&& m)) &&& m = v &&& m := by
  ext i hi
  cases hm : m[i] <;> simp [hm]

/-- Settles O16: away from the alias a read is of the slot, and `csrWrite_becomes` gives every slot. -/
theorem csrReadsBack : Obligations.CsrReadsBack := by
  intro s hs a v ha
  have hw := csrWrite_becomes s a v (csrBankWf_of_wf hs)
  rw [CsrBecomes, if_neg ha] at hw
  obtain ⟨hsame, hother⟩ := hw
  refine ⟨?_, fun b hba hb => ?_, csrWrite_eq_with_csr s a v⟩
  · rw [csrRead_of_ne_sie _ a ha, hsame]
  · rw [csrRead_of_ne_sie _ b hb, csrRead_of_ne_sie _ b hb, hother b hba]

/-- A write through the alias reads back masked by MIDELEG: MIE takes the delegated bits, and MIDELEG, the mask,
stays. -/
theorem csrRead_csrWrite_sie (s : State) (v : Word) (h : CsrBank.wf s.csr = true) :
    (s.csrWrite 0x104#12 v).csrRead 0x104#12 = v &&& s.csrSlot 0x303#12 := by
  have hw := csrWrite_becomes s 0x104#12 v h
  rw [CsrBecomes, if_pos rfl] at hw
  obtain ⟨hmie, hother⟩ := hw
  have hmideleg := hother 0x303#12 (by decide)
  rw [csrRead_sie, hmie, hmideleg, merge_and_mask]

/-- Settles O17: both reads are the definition's two branches, the write is `csrWrite_becomes`, and the write read
through the alias is `csrRead_csrWrite_sie`. -/
theorem sieIsAnAliasOfMie : Obligations.SieIsAnAliasOfMie := fun s hs =>
  have hcsr := csrBankWf_of_wf hs
  ⟨csrRead_sie s, csrRead_of_ne_sie s, fun a v => csrWrite_becomes s a v hcsr,
    fun v => csrRead_csrWrite_sie s v hcsr⟩

end Sys2Proof.Machine

/-! ## Memory (20_memory.md): reads and writes in RAM

What the Bus answers to an access that lies in RAM, the number a run of bytes spells and what writing a run does to
Memory, and the two statements about them. -/

namespace Sys2Proof.Machine

/-! ### Accesses that lie in RAM -/

/-- The Bus translates every access in RAM, to the offset of its address. -/
theorem busOffset_of_inRam {s : State} {a : Word} {n : Nat} (h : InRam s a n) :
    s.busOffset a n = .ok (offsetOf s a) := by
  obtain ⟨hbase, hend⟩ := h
  exact (busOffset_eq_ok s a n _).mpr ⟨hbase, hend, rfl⟩

theorem memRead_of_inRam {s : State} {a : Word} {n : Nat} (hn : n = 1 ∨ n = 2 ∨ n = 4 ∨ n = 8) (h : InRam s a n) :
    s.memRead a n = .ok (leValue (readCells s.mem (offsetOf s a) n)) := by
  rw [memRead_eq s a n hn, busOffset_of_inRam h]

theorem memWrite_of_inRam {s : State} {a : Word} {n : Nat} (v : Word) (hn : n = 1 ∨ n = 2 ∨ n = 4 ∨ n = 8)
    (h : InRam s a n) : s.memWrite a n v = .ok (s.setMem (writeCells s.mem (offsetOf s a) (leBytes n v))) := by
  rw [memWrite_eq s a n v hn, busOffset_of_inRam h]

/-! ### Runs of bytes -/

theorem memoryWf_of_wf {s : State} (h : s.wf = true) : Memory.wf s.cfg.ramSize s.mem = true := by
  obtain ⟨-, hmem, -⟩ := (wf_iff s).mp h
  exact hmem

/-- Up to eight bytes of RAM are read as the number they spell (R51). -/
theorem leValue_readCells_toNat (s : State) (o n : Nat) (hn : n ≤ 8) :
    (leValue (readCells s.mem o n)).toNat = ramNat s o n := by
  rw [leValue_toNat _ (by simpa using hn), readCells_ramNat]

/-- Writing the low bytes of a value as a run within RAM sets those bytes and no other (R52). -/
theorem ramBecomes_writeCells {s : State} {o n : Nat} (v : Word) (hend : o + n ≤ s.cfg.ramSize)
    (hmem : Memory.wf s.cfg.ramSize s.mem = true) :
    RamBecomes s (s.setMem (writeCells s.mem o (leBytes n v))) o n v := by
  constructor
  · intro k hk
    rw [setMem_ramByte, getCell_writeCells_in s.mem o _ k (by simpa using hk) (by simpa using hend) hmem,
      leBytes_getElem]
  · intro p hp
    exact getCell_writeCells_out s.mem o _ p (by simpa using hp)

/-! ### The statements -/

/-- Settles O19: the value read is the number the bytes spell, and `n` bytes spell less than 256 ^ n. -/
theorem memReadIsLittleEndian : Obligations.MemReadIsLittleEndian := by
  intro s a n hn hram
  have hval := leValue_readCells_toNat s (offsetOf s a) n (by omega)
  exact ⟨_, memRead_of_inRam hn hram, hval, hval ▸ ramNat_lt s n (offsetOf s a)⟩

/-- Settles O20: the write is a run of `n` bytes within RAM, put into Memory and nowhere else. -/
theorem memWriteSetsExactlyItsBytes : Obligations.MemWriteSetsExactlyItsBytes := by
  intro s a n v hs hn hram
  exact ⟨_, memWrite_of_inRam v hn hram, ramBecomes_writeCells v hram.2 (memoryWf_of_wf hs), rfl⟩

end Sys2Proof.Machine

/-! ## Decode faults (30_encoding.md R78): a word that no row of the opcode table lists

The masks of the table's rows in terms of the decoder's fields, the decoder's families read against the table, and
what a step and a run do with a word that is rejected. -/

namespace Sys2Proof.Machine

/-! ### The masks of the table, by field -/

/-- Masking a word masks each of its fields. -/
theorem and_rWord (w : InstWord) (m7 : BitVec 7) (m2 m1 : RegIx) (m3 : BitVec 3) (md : RegIx) (mo : BitVec 7) :
    w &&& rWord m7 m2 m1 m3 md mo = rWord (funct7Of w &&& m7) (rs2Of w &&& m2) (rs1Of w &&& m1) (funct3Of w &&& m3)
      (rdOf w &&& md) (opcodeOf w &&& mo) := by
  apply BitVec.eq_of_getLsbD_eq
  intro i hi
  simp only [BitVec.getLsbD_and, rWord_getLsbD, funct7Of, rs2Of, rs1Of, funct3Of, rdOf, opcodeOf,
    BitVec.getLsbD_extractLsb']
  grind

/-- funct6 is funct7 without its lowest bit. -/
theorem funct7Of_and_funct6 (w : InstWord) : funct7Of w &&& 0x7E#7 = funct6Of w ++ 0#1 := by
  apply BitVec.eq_of_getLsbD_eq
  intro i hi
  rw [BitVec.getLsbD_append]
  simp only [BitVec.getLsbD_and, funct7Of, funct6Of, BitVec.getLsbD_extractLsb']
  interval_cases i <;> simp

/-- funct5 is funct7 without aq and rl. -/
theorem funct7Of_and_funct5 (w : InstWord) : funct7Of w &&& 0x7C#7 = funct5Of w ++ 0#2 := by
  apply BitVec.eq_of_getLsbD_eq
  intro i hi
  rw [BitVec.getLsbD_append]
  simp only [BitVec.getLsbD_and, funct7Of, funct5Of, BitVec.getLsbD_extractLsb']
  interval_cases i <;> simp

section Masks

variable {w : InstWord} {op f7 : BitVec 7} {f3 : BitVec 3}

theorem and_opcodeMask (ho : opcodeOf w = op) : w &&& 0x0000007F#32 = rWord 0#7 0#5 0#5 0#3 0#5 op := by
  rw [show 0x0000007F#32 = rWord 0#7 0#5 0#5 0#3 0#5 (BitVec.allOnes 7) by decide, and_rWord]
  simp only [BitVec.and_zero, BitVec.and_allOnes, ho]

theorem and_funct3Mask (ho : opcodeOf w = op) (h3 : funct3Of w = f3) :
    w &&& 0x0000707F#32 = rWord 0#7 0#5 0#5 f3 0#5 op := by
  rw [show 0x0000707F#32 = rWord 0#7 0#5 0#5 (BitVec.allOnes 3) 0#5 (BitVec.allOnes 7) by decide, and_rWord]
  simp only [BitVec.and_zero, BitVec.and_allOnes, ho, h3]

theorem and_funct7Mask (ho : opcodeOf w = op) (h3 : funct3Of w = f3) (h7 : funct7Of w = f7) :
    w &&& 0xFE00707F#32 = rWord f7 0#5 0#5 f3 0#5 op := by
  rw [show 0xFE00707F#32 = rWord (BitVec.allOnes 7) 0#5 0#5 (BitVec.allOnes 3) 0#5 (BitVec.allOnes 7) by decide,
    and_rWord]
  simp only [BitVec.and_zero, BitVec.and_allOnes, ho, h3, h7]

theorem and_funct7RdMask {rd : RegIx} (ho : opcodeOf w = op) (h3 : funct3Of w = f3) (h7 : funct7Of w = f7)
    (hrd : rdOf w = rd) : w &&& 0xFE007FFF#32 = rWord f7 0#5 0#5 f3 rd op := by
  rw [show 0xFE007FFF#32 = rWord (BitVec.allOnes 7) 0#5 0#5 (BitVec.allOnes 3) (BitVec.allOnes 5) (BitVec.allOnes 7)
    by decide, and_rWord]
  simp only [BitVec.and_zero, BitVec.and_allOnes, ho, h3, h7, hrd]

theorem and_funct6Mask {f6 : BitVec 6} (ho : opcodeOf w = op) (h3 : funct3Of w = f3) (h6 : funct6Of w = f6) :
    w &&& 0xFC00707F#32 = rWord (f6 ++ 0#1) 0#5 0#5 f3 0#5 op := by
  rw [show 0xFC00707F#32 = rWord 0x7E#7 0#5 0#5 (BitVec.allOnes 3) 0#5 (BitVec.allOnes 7) by decide, and_rWord]
  simp only [BitVec.and_zero, BitVec.and_allOnes, funct7Of_and_funct6, ho, h3, h6]

theorem and_funct5Mask {f5 : BitVec 5} (ho : opcodeOf w = op) (h3 : funct3Of w = f3) (h5 : funct5Of w = f5) :
    w &&& 0xF800707F#32 = rWord (f5 ++ 0#2) 0#5 0#5 f3 0#5 op := by
  rw [show 0xF800707F#32 = rWord 0x7C#7 0#5 0#5 (BitVec.allOnes 3) 0#5 (BitVec.allOnes 7) by decide, and_rWord]
  simp only [BitVec.and_zero, BitVec.and_allOnes, funct7Of_and_funct5, ho, h3, h5]

end Masks

/-! ### Every decoded word is listed -/

/-- A row of the opcode table of a core with this HAS_MULW gives the word the mnemonic `m`. -/
def ListedAs (hasMulw : Bool) (m : String) (w : InstWord) : Prop :=
  ∃ row ∈ opcodeRows, row.mnemonic = m ∧ w &&& row.mask = row.bits ∧ (m = "mulw" → hasMulw = true)

section Families

variable {hasMulw : Bool} {w : InstWord} {i : Instr}

/-- For a decoded instruction the row is looked up by computation. -/
theorem listedAs_of_masked {bits mask : InstWord} (hbits : w &&& mask = bits)
    (hrow : ⟨mnemonicOf i, bits, mask⟩ ∈ opcodeRows := by dsimp only [mnemonicOf]; decide)
    (hmulw : mnemonicOf i = "mulw" → hasMulw = true := by simp [mnemonicOf]) : ListedAs hasMulw (mnemonicOf i) w :=
  ⟨_, hrow, rfl, hbits, hmulw⟩

theorem listedAs_of_decodeLoad (ho : opcodeOf w = 0x03#7) (h : decodeLoad w = .ok i) :
    ListedAs hasMulw (mnemonicOf i) w := by
  unfold decodeLoad at h
  split at h <;> cases h <;> exact listedAs_of_masked (and_funct3Mask ho ‹_›)

theorem listedAs_of_decodeOpImm (ho : opcodeOf w = 0x13#7) (h : decodeOpImm w = .ok i) :
    ListedAs hasMulw (mnemonicOf i) w := by
  unfold decodeOpImm at h
  split at h
  case h_2 | h_6 => split at h <;> cases h <;> exact listedAs_of_masked (and_funct6Mask ho ‹_› ‹_›)
  all_goals cases h <;> exact listedAs_of_masked (and_funct3Mask ho ‹_›)

theorem listedAs_of_decodeOpImm32 (ho : opcodeOf w = 0x1b#7) (h : decodeOpImm32 w = .ok i) :
    ListedAs hasMulw (mnemonicOf i) w := by
  unfold decodeOpImm32 at h
  split at h
  case h_2 | h_3 => split at h <;> cases h <;> exact listedAs_of_masked (and_funct7Mask ho ‹_› ‹_›)
  all_goals cases h <;> exact listedAs_of_masked (and_funct3Mask ho ‹_›)

theorem listedAs_of_decodeStore (ho : opcodeOf w = 0x23#7) (h : decodeStore w = .ok i) :
    ListedAs hasMulw (mnemonicOf i) w := by
  unfold decodeStore at h
  split at h <;> cases h <;> exact listedAs_of_masked (and_funct3Mask ho ‹_›)

theorem listedAs_of_decodeAmo (ho : opcodeOf w = 0x2f#7) (h : decodeAmo w = .ok i) :
    ListedAs hasMulw (mnemonicOf i) w := by
  unfold decodeAmo at h
  split at h
  case h_3 => cases h
  all_goals split at h <;> cases h <;> exact listedAs_of_masked (and_funct5Mask ho ‹_› ‹_›)

theorem listedAs_of_decodeOp (ho : opcodeOf w = 0x33#7) (h : decodeOp w = .ok i) :
    ListedAs hasMulw (mnemonicOf i) w := by
  unfold decodeOp at h
  split at h
  case h_4 => cases h
  all_goals split at h <;> cases h <;> exact listedAs_of_masked (and_funct7Mask ho ‹_› ‹_›)

/-- The row of `mulw` is the one that asks for HAS_MULW, and the decoder asks it too. -/
theorem listedAs_of_decodeOp32 (ho : opcodeOf w = 0x3b#7) (h : decodeOp32 hasMulw w = .ok i) :
    ListedAs hasMulw (mnemonicOf i) w := by
  unfold decodeOp32 at h
  split at h
  case h_4 => cases h
  case h_3 =>
    split at h
    · split at h
      · next hmulw =>
        cases h
        exact listedAs_of_masked (and_funct7Mask ho ‹_› ‹_›) (hmulw := fun _ => hmulw)
      · cases h
    · cases h
  all_goals split at h <;> cases h <;> exact listedAs_of_masked (and_funct7Mask ho ‹_› ‹_›)

theorem listedAs_of_decodeBranch (ho : opcodeOf w = 0x63#7) (h : decodeBranch w = .ok i) :
    ListedAs hasMulw (mnemonicOf i) w := by
  unfold decodeBranch at h
  split at h <;> cases h <;> exact listedAs_of_masked (and_funct3Mask ho ‹_›)

theorem listedAs_of_decodeJalr (ho : opcodeOf w = 0x67#7) (h : decodeJalr w = .ok i) :
    ListedAs hasMulw (mnemonicOf i) w := by
  unfold decodeJalr at h
  split at h <;> cases h
  exact listedAs_of_masked (and_funct3Mask ho ‹_›)

theorem listedAs_of_decodePrivileged (ho : opcodeOf w = 0x73#7) (h3 : funct3Of w = 0#3)
    (h : decodePrivileged w = .ok i) : ListedAs hasMulw (mnemonicOf i) w := by
  unfold decodePrivileged at h
  split_ifs at h with hsret hmret hsfence <;> cases h
  · exact listedAs_of_masked (mask := BitVec.allOnes 32) (BitVec.and_allOnes.trans hsret)
  · exact listedAs_of_masked (mask := BitVec.allOnes 32) (BitVec.and_allOnes.trans hmret)
  · obtain ⟨h7, hrd⟩ := hsfence
    exact listedAs_of_masked (and_funct7RdMask ho h3 h7 hrd)

theorem listedAs_of_decodeSystem (ho : opcodeOf w = 0x73#7) (h : decodeSystem w = .ok i) :
    ListedAs hasMulw (mnemonicOf i) w := by
  unfold decodeSystem at h
  split at h
  case h_1 h3 => exact listedAs_of_decodePrivileged ho h3 h
  all_goals cases h <;> exact listedAs_of_masked (and_funct3Mask ho ‹_›)

end Families

/-- The opcode of a family (30_encoding.md R76). -/
def opcodeOfFamily : Family → BitVec 7
  | .load => 0x03#7
  | .opImm => 0x13#7
  | .auipc => 0x17#7
  | .opImm32 => 0x1b#7
  | .store => 0x23#7
  | .amo => 0x2f#7
  | .op => 0x33#7
  | .lui => 0x37#7
  | .op32 => 0x3b#7
  | .branch => 0x63#7
  | .jalr => 0x67#7
  | .jal => 0x6f#7
  | .system => 0x73#7

theorem eq_opcodeOfFamily {op : BitVec 7} {f : Family} (h : familyOf op = some f) : op = opcodeOfFamily f := by
  unfold familyOf at h
  split at h <;> cases h <;> rfl

/-- The decoder accepts only words that a row of the table lists under the decoded instruction's mnemonic (R77). -/
theorem listedAs_of_decodeWord {hasMulw : Bool} {w : InstWord} {i : Instr} (h : decodeWord hasMulw w = .ok i) :
    ListedAs hasMulw (mnemonicOf i) w := by
  unfold decodeWord at h
  cases hf : familyOf (opcodeOf w) with
  | none => simp [hf] at h
  | some f =>
    have ho := eq_opcodeOfFamily hf
    cases f <;> simp only [hf] at h
    case load => exact listedAs_of_decodeLoad ho h
    case opImm => exact listedAs_of_decodeOpImm ho h
    case opImm32 => exact listedAs_of_decodeOpImm32 ho h
    case store => exact listedAs_of_decodeStore ho h
    case amo => exact listedAs_of_decodeAmo ho h
    case op => exact listedAs_of_decodeOp ho h
    case op32 => exact listedAs_of_decodeOp32 ho h
    case branch => exact listedAs_of_decodeBranch ho h
    case jalr => exact listedAs_of_decodeJalr ho h
    case system => exact listedAs_of_decodeSystem ho h
    case auipc | lui | jal =>
      cases h
      exact listedAs_of_masked (and_opcodeMask ho)

/-- A word whose only matching rows are those of an absent `mulw` is rejected (30_encoding.md R78). -/
theorem decodeWord_eq_error_of_unlisted {hasMulw : Bool} {w : InstWord}
    (h : ∀ row ∈ opcodeRows, w &&& row.mask = row.bits → row.mnemonic = "mulw" ∧ hasMulw = false) :
    ∃ e, decodeWord hasMulw w = .error e := by
  cases hd : decodeWord hasMulw w with
  | error e => exact ⟨e, rfl⟩
  | ok i =>
    obtain ⟨row, hrow, hm, hbits, hmulw⟩ := listedAs_of_decodeWord hd
    obtain ⟨hname, hno⟩ := h row hrow hbits
    have hyes := hmulw (hm ▸ hname)
    rw [hno] at hyes
    cases hyes

/-! ### The step and the run -/

/-- With pc in RAM the fetch answers the word there (20_memory.md R54). -/
theorem fetch_of_inRam {s : State} (h : InRam s s.pc 4) : s.fetch = .ok (wordAtPc s) := by
  unfold State.fetch
  rw [memRead_of_inRam (by decide) h]
  refine congrArg Except.ok (BitVec.eq_of_toNat_eq ?_)
  rw [BitVec.toNat_setWidth, leValue_readCells_toNat s _ 4 (by decide), wordAtPc, BitVec.toNat_ofNat]

/-- A Running core that fetches a rejected word takes the decode fault after the pre-advance (60_exceptions.md R165). -/
theorem step_of_decode_error {s : State} {w : InstWord} {e : DecodeReject} (hs : s.status = .running)
    (hf : s.fetch = .ok w) (hd : decodeWord s.cfg.hasMulw w = .error e) :
    step s = s.preAdvance.raise (decodeFaultOf w) := by
  simp only [step, hs, State.stepRunning, hf, State.executeWord, hd]

/-- A run stops at the first fault a step raises (60_exceptions.md R162). -/
theorem run_succ_of_raised {s left : State} {r : FaultReason} (h : step s = .fault (.raised r left)) (fuel : Nat) :
    s.run (fuel + 1) = .faulted r left := by
  rw [State.run, h]

/-- Settles O10: a word that no row lists is rejected by the decoder, so the step raises the decode fault from the
pre-advanced state, and the run ends with it. -/
theorem unlistedWordIsADecodeFault : Obligations.UnlistedWordIsADecodeFault := by
  intro s hs hram hrows
  obtain ⟨e, hd⟩ := decodeWord_eq_error_of_unlisted hrows
  have hstep : FaultsFrom (step s) s.preAdvance (decodeFaultOf (wordAtPc s)) :=
    step_of_decode_error hs (fetch_of_inRam hram) hd
  exact ⟨hstep, run_succ_of_raised hstep⟩

end Sys2Proof.Machine

/-! ## The loads (40_loads.md): the effective address, the bytes read and their extension

The address in the spec's arithmetic, the fault of a read outside RAM, the two extensions on the number read, what
every load does and which words decode to one, and the two statements about them. -/

namespace Sys2Proof.Machine

/-! ### The effective address -/

/-- Adding a 12-bit immediate is signed addition modulo 2^64 (30_encoding.md R71; 40_loads.md R85). -/
theorem add_imm12 (v : Word) (imm : BitVec 12) : v + imm12 imm = wordOfInt (v.toInt + imm.toInt) := by
  rw [wordOfInt, BitVec.ofInt_add, BitVec.ofInt_toInt]
  rfl

theorem loadAddr_eq (s : State) (rs1 : RegIx) (imm : BitVec 12) :
    s.loadAddr rs1 imm = wordOfInt ((s.readX rs1).toInt + imm.toInt) := add_imm12 _ imm

/-! ### Reads in RAM and outside it -/

/-- The Bus faults on every access outside RAM, by the side it lies on (20_memory.md R49, R50). -/
theorem busOffset_of_not_inRam {s : State} {a : Word} {n : Nat} (h : ¬ InRam s a n) :
    s.busOffset a n = .error (accessFault s a n) := by
  rw [busOffset_eq_error, accessFault]
  by_cases hlow : a.toNat < s.cfg.ramBase.toNat
  · exact .inl ⟨hlow, if_pos hlow⟩
  · have hbase : s.cfg.ramBase.toNat ≤ a.toNat := Nat.le_of_not_lt hlow
    exact .inr ⟨hbase, Nat.lt_of_not_le fun hend => h ⟨hbase, hend⟩, if_neg hlow⟩

theorem memRead_of_not_inRam {s : State} {a : Word} {n : Nat} (hn : n = 1 ∨ n = 2 ∨ n = 4 ∨ n = 8)
    (h : ¬ InRam s a n) : s.memRead a n = .error (accessFault s a n) :=
  (memRead_eq_error s a n _ hn).mpr (busOffset_of_not_inRam h)

/-- The value read in RAM, as the number its bytes spell (20_memory.md R51). -/
theorem memRead_eq_ramNat {s : State} {a : Word} {n : Nat} (hn : n = 1 ∨ n = 2 ∨ n = 4 ∨ n = 8) (h : InRam s a n) :
    s.memRead a n = .ok (BitVec.ofNat 64 (ramNat s (offsetOf s a) n)) := by
  rw [memRead_of_inRam hn h, ← leValue_readCells_toNat s (offsetOf s a) n (by omega), BitVec.ofNat_toNat,
    BitVec.setWidth_eq]

/-! ### Extensions of the number read (00_scope.md R17) -/

theorem sextLow_ofNat {n : Nat} (hn : n ≤ 64) (N : Nat) :
    sextLow n (BitVec.ofNat 64 N) = wordOfInt (BitVec.ofNat n N).toInt := by
  rw [sextLow, BitVec.setWidth_ofNat_of_le hn]
  rfl

/-- Zero-extending a number that fits the low `n` bits changes nothing. -/
theorem zextLow_ofNat {n N : Nat} (hn : n ≤ 64) (hN : N < 2 ^ n) : zextLow n (BitVec.ofNat 64 N) = BitVec.ofNat 64 N := by
  rw [zextLow, BitVec.setWidth_ofNat_of_le hn, BitVec.setWidth_ofNat_of_le_of_lt hn hN]

/-- The number `n` bytes spell fits their width, so zero-extending it changes nothing. -/
theorem zextLow_ramNat (s : State) (o : Nat) {n width : Nat} (hn : n ≤ 8) (hwidth : width = 8 * n) :
    zextLow width (BitVec.ofNat 64 (ramNat s o n)) = BitVec.ofNat 64 (ramNat s o n) := by
  refine zextLow_ofNat (by omega) ?_
  rw [hwidth, Nat.pow_mul]
  exact ramNat_lt s n o

/-! ### What every load does (R85) -/

section Load

variable {i : Instr} {s : State} {n : Nat} {extend : Word → Word} {rd rs1 : RegIx} {imm : BitVec 12}

/-- A load in RAM completes, and rd takes the extension of the number its bytes spell. -/
theorem load_completesWriting {v : Word} (hn : n = 1 ∨ n = 2 ∨ n = 4 ∨ n = 8)
    (hexec : exec i s = s.load n extend rd rs1 imm)
    (hv : extend (BitVec.ofNat 64 (ramNat s (offsetOf s (s.loadAddr rs1 imm)) n)) = v)
    (hram : InRam s (s.loadAddr rs1 imm) n) : CompletesWriting i s rd v := by
  refine ⟨s.writeX rd v, ?_, writesOnly_writeX s rd v⟩
  rw [hexec, State.load, memRead_eq_ramNat hn hram, ← hv]

/-- A load outside RAM faults as its read does, before rd is written. -/
theorem load_faultsFrom (hn : n = 1 ∨ n = 2 ∨ n = 4 ∨ n = 8) (hexec : exec i s = s.load n extend rd rs1 imm)
    (hram : ¬ InRam s (s.loadAddr rs1 imm) n) :
    FaultsFrom (exec i s) s (accessFault s (s.loadAddr rs1 imm) n) := by
  rw [hexec, State.load, memRead_of_not_inRam hn hram]
  rfl

end Load

/-! ### Which words decode to a load -/

/-- Under opcode 0x03 the load decoder decides (30_encoding.md R76). -/
theorem decodesI_of_decodeLoad {funct3 : BitVec 3} {mk : RegIx → RegIx → BitVec 12 → Instr}
    (h : ∀ w, funct3Of w = funct3 → decodeLoad w = .ok (mk (rdOf w) (rs1Of w) (immIOf w))) :
    DecodesI 0x03#7 funct3 mk := by
  intro hasMulw w hopcode hfunct3
  rw [← h w hfunct3, decodeWord, hopcode]
  rfl

/-! ### The statements -/

/-- Settles O33: each signed load is `State.load` with its width, and `sextLow_ofNat` reads the low bits of the number
as two's complement. -/
theorem signedLoadsExtendTheSign : Obligations.SignedLoadsExtendTheSign := by
  refine ⟨?lbWord, ?lhWord, ?lwWord, fun rd rs1 imm s => ?_⟩
  case lbWord | lhWord | lwWord => exact decodesI_of_decodeLoad fun w h => by simp only [decodeLoad, h]
  rw [← loadAddr_eq]
  refine ⟨?lb, ?lbFault, ?lh, ?lhFault, ?lw, ?lwFault⟩
  case lb | lh | lw => exact load_completesWriting (by decide) rfl (sextLow_ofNat (by decide) _)
  case lbFault | lhFault | lwFault => exact load_faultsFrom (by decide) rfl

/-- Settles O34: each of these loads is `State.load` with its width; `ld` extends nothing, and the bytes of the others
fit the width they extend from (`zextLow_ramNat`). -/
theorem unsignedLoadsExtendWithZeros : Obligations.UnsignedLoadsExtendWithZeros := by
  refine ⟨?ldWord, ?lbuWord, ?lhuWord, ?lwuWord, fun rd rs1 imm s => ?_⟩
  case ldWord | lbuWord | lhuWord | lwuWord => exact decodesI_of_decodeLoad fun w h => by simp only [decodeLoad, h]
  rw [← loadAddr_eq]
  refine ⟨?ld, ?ldFault, ?lbu, ?lbuFault, ?lhu, ?lhuFault, ?lwu, ?lwuFault⟩
  case ld => exact load_completesWriting (by decide) rfl rfl
  case lbu | lhu | lwu => exact load_completesWriting (by decide) rfl (zextLow_ramNat s _ (by decide) (by decide))
  case ldFault | lbuFault | lhuFault | lwuFault => exact load_faultsFrom (by decide) rfl

end Sys2Proof.Machine

/-! ## The ALU immediates, the word sums and the shifts (41_alu_immediate.md, 45_alu_register.md)

What an instruction that only writes rd does, its operands and results in the spec's arithmetic, the shifts under both
modes, the words that decode to one, and the six statements about them. -/

namespace Sys2Proof.Machine

/-! ### An instruction that only writes rd -/

/-- An instruction that leaves its state with a write to rd completes writing that value, in any spelling of it. -/
theorem completesWriting_of_exec {i : Instr} {s : State} {rd : RegIx} {u v : Word}
    (hexec : exec i s = .next (s.writeX rd u)) (hv : u = v) : CompletesWriting i s rd v :=
  ⟨s.writeX rd u, hexec, hv ▸ writesOnly_writeX s rd u⟩

/-! ### Immediates and comparisons (00_scope.md R15; 30_encoding.md R71) -/

theorem imm12_eq_wordOfInt (imm : BitVec 12) : imm12 imm = wordOfInt imm.toInt := rfl

theorem imm12_toInt (imm : BitVec 12) : (imm12 imm).toInt = imm.toInt := BitVec.toInt_signExtend_of_le (by decide)

theorem boolWord_decide (c : Prop) [Decidable c] : boolWord (decide c) = boolValue c := by
  by_cases hc : c <;> simp [boolWord, boolValue, hc]

theorem boolWord_ltSigned_imm12 (v : Word) (imm : BitVec 12) :
    boolWord (ltSigned v (imm12 imm)) = boolValue (v.toInt < imm.toInt) := by
  rw [ltSigned, boolWord_decide, imm12_toInt]

theorem boolWord_ltUnsigned (v u : Word) : boolWord (ltUnsigned v u) = boolValue (v.toNat < u.toNat) :=
  boolWord_decide _

/-! ### Word slices (00_scope.md R17) -/

/-- A value is the number it is read as. -/
theorem eq_ofNat_of_toNat_eq {W n : Nat} {v : BitVec W} (h : v.toNat = n) : v = BitVec.ofNat W n := by
  rw [← h, BitVec.ofNat_toNat, BitVec.setWidth_eq]

theorem trunc32_toNat (v : Word) : (trunc32 v).toNat = low32 v := BitVec.toNat_setWidth 32 v

theorem trunc32_eq_ofNat_low32 (v : Word) : trunc32 v = BitVec.ofNat 32 (low32 v) :=
  eq_ofNat_of_toNat_eq (trunc32_toNat v)

theorem sext32_ofNat (n : Nat) : sext32 (BitVec.ofNat 32 n) = sextOfNat32 n := rfl

/-- `sext_32` of a 32-bit result, by the number it is read as. -/
theorem sext32_eq_sextOfNat32 {u : Slice} {n : Nat} (h : u.toNat = n) : sext32 u = sextOfNat32 n :=
  congrArg sext32 (eq_ofNat_of_toNat_eq h)

theorem sext32_trunc32_add (a b : Word) : sext32 (trunc32 a + trunc32 b) = sextOfNat32 (low32 a + low32 b) := by
  rw [← sext32_ofNat, BitVec.ofNat_add, ← trunc32_eq_ofNat_low32, ← trunc32_eq_ofNat_low32]

theorem sext32_trunc32_sub (a b : Word) :
    sext32 (trunc32 a - trunc32 b) = sextOfNat32 (low32 a + (2 ^ 32 - low32 b)) := by
  rw [← sext32_ofNat, BitVec.sub_def, trunc32_toNat, trunc32_toNat, Nat.add_comm]

/-! ### Shift amounts (45_alu_register.md R123, R134) -/

theorem shiftAmount6_eq_mod (v : Word) : shiftAmount6 v = v.toNat % 64 := BitVec.toNat_setWidth 6 v

theorem shiftAmount5_eq_mod (v : Word) : shiftAmount5 v = v.toNat % 32 := BitVec.toNat_setWidth 5 v

/-! ### Shifts and rotates as operations on numbers (00_scope.md R16) -/

section Shifts

variable {W : Nat} (mode : ShiftMode) (v : BitVec W) (s : Nat)

theorem lsl_toNat : (lsl v s).toNat = natLsl W v.toNat s := by
  rw [lsl, BitVec.toNat_shiftLeft, Nat.shiftLeft_eq, natLsl]

theorem lsr_toNat : (lsr v s).toNat = natLsr v.toNat s := by
  rw [lsr, BitVec.toNat_ushiftRight, Nat.shiftRight_eq_div_pow, natLsr]

theorem asr_toNat : (asr v s).toNat = natAsr W v.toNat s := by
  rw [asr, BitVec.sshiftRight, BitVec.toNat_ofInt, Int.shiftRight_eq_div_pow, natAsr, BitVec.ofNat_toNat,
    BitVec.setWidth_eq]
  simp only [Nat.cast_pow, Nat.cast_ofNat]

theorem rotl_toNat : (rotl v s).toNat = natRotl W v.toNat s := by
  rw [rotl, BitVec.toNat_or, lsl_toNat, lsr_toNat, natRotl]

theorem rotr_toNat : (rotr v s).toNat = natRotr W v.toNat s := by
  rw [rotr, BitVec.toNat_or, lsl_toNat, lsr_toNat, natRotr]

theorem qsll_toNat : (qsll mode v s).toNat = specSll mode W v.toNat s := by
  cases mode
  case quirk => exact rotl_toNat v s
  case standard => exact lsl_toNat v s

theorem qsrl_toNat : (qsrl mode v s).toNat = specSrl mode W v.toNat s := by
  cases mode
  case quirk => exact rotr_toNat v s
  case standard => exact lsr_toNat v s

theorem qsra_quirk : qsra .quirk v s = asr v s ||| lsl v (W - s) := rfl

theorem qsra_toNat : (qsra mode v s).toNat = specSra mode W v.toNat s := by
  cases mode
  case quirk => rw [qsra_quirk, BitVec.toNat_or, asr_toNat, lsl_toNat, specSra, if_pos rfl]
  case standard => exact asr_toNat v s

end Shifts

/-! ### The rotate-style shifts, bit by bit (41_alu_immediate.md R93, R94) -/

section Quirk

variable {W : Nat} (v : BitVec W) {s : Nat}

theorem qsll_quirk_eq_rotateLeft (hs : s < W) : qsll .quirk v s = v.rotateLeft s :=
  (BitVec.rotateLeft_eq_rotateLeftAux_of_lt hs).symm

theorem qsrl_quirk_eq_rotateRight (hs : s < W) : qsrl .quirk v s = v.rotateRight s :=
  (BitVec.rotateRight_eq_rotateRightAux_of_lt hs).symm

/-- The right shift moves bit `i + s` modulo `W` to bit `i`. -/
theorem qsrl_quirk_getLsbD (hs : s < W) {i : Nat} (hi : i < W) :
    (qsrl .quirk v s).getLsbD i = v.getLsbD ((i + s) % W) := by
  rw [qsrl_quirk_eq_rotateRight v hs, BitVec.getLsbD_rotateRight, Nat.mod_eq_of_lt hs]
  by_cases hwrap : i + s < W
  · have hlow : i < W - s := by omega
    simp [hlow, Nat.mod_eq_of_lt hwrap, Nat.add_comm s i]
  · have hhigh : ¬ i < W - s := by omega
    have hmod : (i + s) % W = i - (W - s) := by
      rw [Nat.mod_eq_sub_mod (by omega), Nat.mod_eq_of_lt (by omega)]
      omega
    simp [hhigh, hi, hmod]

/-- The left shift moves bit `i` to bit `i + s` modulo `W`. -/
theorem qsll_quirk_getLsbD (hs : s < W) {i : Nat} (hi : i < W) :
    (qsll .quirk v s).getLsbD ((i + s) % W) = v.getLsbD i := by
  rw [qsll_quirk_eq_rotateLeft v hs, BitVec.getLsbD_rotateLeft, Nat.mod_eq_of_lt hs]
  by_cases hwrap : i + s < W
  · simp [Nat.mod_eq_of_lt hwrap, hwrap]
  · have hmod : (i + s) % W = i + s - W := by
      rw [Nat.mod_eq_sub_mod (by omega), Nat.mod_eq_of_lt (by omega)]
    have hlow : i + s - W < s := by omega
    have hback : W - s + (i + s - W) = i := by omega
    simp [hmod, hlow, hback]

/-- Of a negative value the bits shifted out go where the arithmetic shift puts ones already. -/
theorem qsra_quirk_of_msb_true (h : v.msb = true) : qsra .quirk v s = v.sshiftRight s := by
  apply BitVec.eq_of_getLsbD_eq
  intro i hi
  rw [qsra_quirk, asr, lsl, BitVec.getLsbD_or, BitVec.getLsbD_sshiftRight, BitVec.getLsbD_shiftLeft]
  by_cases hlow : s + i < W
  · have hout : i < W - s := by omega
    simp [hout]
  · simp [hlow, h, hi]

/-- Of any other value the arithmetic shift is the logical one, and the quirk makes both the rotate. -/
theorem qsra_quirk_of_msb_false (h : v.msb = false) : qsra .quirk v s = qsrl .quirk v s := by
  rw [qsra_quirk, asr, BitVec.sshiftRight_eq_of_msb_false h]
  rfl

theorem qsll_quirk_zero : qsll .quirk v 0 = v := by simp [qsll, rotl, lsl, lsr, BitVec.ushiftRight_eq_zero]

theorem qsrl_quirk_zero : qsrl .quirk v 0 = v := by simp [qsrl, rotr, lsl, lsr]

theorem qsra_quirk_zero : qsra .quirk v 0 = v := by simp [qsra, asr, lsl]

end Quirk

/-! ### Which words decode to an ALU instruction (30_encoding.md R76, R77) -/

section Decode

variable {hasMulw : Bool} {w : InstWord}

theorem decodeWord_opImm (h : opcodeOf w = 0x13#7) : decodeWord hasMulw w = decodeOpImm w := by
  rw [decodeWord, h]; rfl

theorem decodeWord_opImm32 (h : opcodeOf w = 0x1b#7) : decodeWord hasMulw w = decodeOpImm32 w := by
  rw [decodeWord, h]; rfl

theorem decodeWord_op (h : opcodeOf w = 0x33#7) : decodeWord hasMulw w = decodeOp w := by
  rw [decodeWord, h]; rfl

theorem decodeWord_op32 (h : opcodeOf w = 0x3b#7) : decodeWord hasMulw w = decodeOp32 hasMulw w := by
  rw [decodeWord, h]; rfl

end Decode

/-! ### The statements -/

/-- Settles O38: each instruction is one register write, its immediate `imm12` and its comparisons in the spec's
arithmetic. -/
theorem immediateArithmeticAndLogic : Obligations.ImmediateArithmeticAndLogic := by
  refine ⟨?addiWord, ?sltiWord, ?sltiuWord, ?xoriWord, ?oriWord, ?andiWord, fun rd rs1 imm s => ?_⟩
  case addiWord | sltiWord | sltiuWord | xoriWord | oriWord | andiWord =>
    intro _ w ho h3
    simp only [decodeWord_opImm ho, decodeOpImm, h3]
  refine ⟨?addi, ?slti, ?sltiu, ?xori, ?ori, ?andi⟩
  case addi => exact completesWriting_of_exec rfl (add_imm12 _ imm)
  case slti => exact completesWriting_of_exec rfl (boolWord_ltSigned_imm12 _ imm)
  case sltiu => exact completesWriting_of_exec rfl (boolWord_ltUnsigned _ (imm12 imm))
  case xori | ori | andi => exact completesWriting_of_exec rfl (by rw [imm12_eq_wordOfInt])

/-- Settles O39: each instruction is one register write, and the shift written is the spec's on numbers. -/
theorem immediateShiftsFollowTheQuirk : Obligations.ImmediateShiftsFollowTheQuirk := by
  refine ⟨?slliWord, ?srliWord, ?sraiWord, fun rd rs1 shamt s => ?_⟩
  case slliWord | srliWord | sraiWord =>
    intro _ w ho h3 h6
    simp only [decodeWord_opImm ho, decodeOpImm, h3, h6]
  refine ⟨?slli, ?srli, ?srai⟩
  case slli => exact completesWriting_of_exec rfl (eq_ofNat_of_toNat_eq (lsl_toNat _ _))
  case srli => exact completesWriting_of_exec rfl (eq_ofNat_of_toNat_eq (qsrl_toNat _ _ _))
  case srai => exact completesWriting_of_exec rfl (eq_ofNat_of_toNat_eq (qsra_toNat _ _ _))

/-- Settles O40: `sext32_trunc32_add` and `sext32_trunc32_sub` read the sums and the difference modulo 2^32. -/
theorem wordSumsAndDifferences : Obligations.WordSumsAndDifferences := by
  refine ⟨?addiwWord, ?addwWord, ?subwWord, fun rd rs1 rs2 imm s => ⟨?addiw, ?addw, ?subw⟩⟩
  case addiwWord =>
    intro _ w ho h3
    simp only [decodeWord_opImm32 ho, decodeOpImm32, h3]
  case addwWord | subwWord =>
    intro _ w ho h3 h7
    simp only [decodeWord_op32 ho, decodeOp32, h3, h7]
  case addiw => exact completesWriting_of_exec rfl (sext32_trunc32_add _ (imm12 imm))
  case addw => exact completesWriting_of_exec rfl (sext32_trunc32_add _ _)
  case subw => exact completesWriting_of_exec rfl (sext32_trunc32_sub _ _)

/-- Settles O41: the shifts of O39 and O45 on the low word, whose number is `low32`. -/
theorem wordShiftsFollowTheQuirk : Obligations.WordShiftsFollowTheQuirk := by
  refine ⟨?slliwWord, ?srliwWord, ?sraiwWord, ?sllwWord, ?srlwWord, ?srawWord, fun rd rs1 rs2 shamt s => ?_⟩
  case slliwWord | srliwWord | sraiwWord =>
    intro _ w ho h3 h7
    simp only [decodeWord_opImm32 ho, decodeOpImm32, h3, h7]
  case sllwWord | srlwWord | srawWord =>
    intro _ w ho h3 h7
    simp only [decodeWord_op32 ho, decodeOp32, h3, h7]
  rw [← trunc32_toNat, ← shiftAmount5_eq_mod]
  refine ⟨?slliw, ?srliw, ?sraiw, ?sllw, ?srlw, ?sraw⟩
  case slliw => exact completesWriting_of_exec rfl (sext32_eq_sextOfNat32 (lsl_toNat _ _))
  case sllw => exact completesWriting_of_exec rfl (sext32_eq_sextOfNat32 (qsll_toNat _ _ _))
  case srliw | srlw => exact completesWriting_of_exec rfl (sext32_eq_sextOfNat32 (qsrl_toNat _ _ _))
  case sraiw | sraw => exact completesWriting_of_exec rfl (sext32_eq_sextOfNat32 (qsra_toNat _ _ _))

/-- Settles O45: as O39, the amount being the low 6 bits of x[rs2]. -/
theorem registerShiftsFollowTheQuirk : Obligations.RegisterShiftsFollowTheQuirk := by
  refine ⟨?sllWord, ?srlWord, ?sraWord, fun rd rs1 rs2 s => ?_⟩
  case sllWord | srlWord | sraWord =>
    intro _ w ho h3 h7
    simp only [decodeWord_op ho, decodeOp, h3, h7]
  rw [← shiftAmount6_eq_mod]
  refine ⟨?sll, ?srl, ?sra⟩
  case sll => exact completesWriting_of_exec rfl (eq_ofNat_of_toNat_eq (qsll_toNat _ _ _))
  case srl => exact completesWriting_of_exec rfl (eq_ofNat_of_toNat_eq (qsrl_toNat _ _ _))
  case sra => exact completesWriting_of_exec rfl (eq_ofNat_of_toNat_eq (qsra_toNat _ _ _))

/-- Settles O46: the quirk shifts are the library's rotates below `W`, and the sign decides the arithmetic one; no
width is special. -/
theorem quirkShiftsRotateBits : Obligations.QuirkShiftsRotateBits := by
  intro W _ v s hs
  rw [← BitVec.msb_eq_getLsbD_last]
  exact ⟨fun i hi => ⟨qsrl_quirk_getLsbD v hs hi, qsll_quirk_getLsbD v hs hi⟩, qsra_quirk_of_msb_true v,
    qsra_quirk_of_msb_false v, qsll_quirk_zero v, qsrl_quirk_zero v, qsra_quirk_zero v⟩

end Sys2Proof.Machine

/-! ## The upper immediates (42_upper_immediate.md): `auipc` and `lui`

The 20 bits shifted left by 12 as a number, and the statement about both instructions. -/

namespace Sys2Proof.Machine

/-! ### The upper immediate (30_encoding.md R74) -/

theorem append_zero12_toNat (imm20 : BitVec 20) : (imm20 ++ 0#12).toNat = imm20.toNat * 2 ^ 12 := by
  rw [BitVec.toNat_append, BitVec.toNat_zero, Nat.or_zero, Nat.shiftLeft_eq]

theorem immU_eq_sextOfNat32 (imm20 : BitVec 20) : immU imm20 = sextOfNat32 (imm20.toNat * 2 ^ 12) :=
  sext32_eq_sextOfNat32 (append_zero12_toNat imm20)

/-! ### The statement -/

/-- Settles O42: each instruction is one register write of `immU`; `auipc` adds it to pc before it takes the 4 of the
pre-advance off again, which modulo 2^64 is the sum with pc_inst. -/
theorem upperImmediates : Obligations.UpperImmediates := by
  refine ⟨?auipcWord, ?luiWord, fun rd imm20 s => ?_⟩
  case auipcWord | luiWord =>
    intro _ w hopcode
    rw [decodeWord, hopcode]
    rfl
  rw [← immU_eq_sextOfNat32]
  refine ⟨?auipc, ?lui⟩
  case auipc => exact completesWriting_of_exec rfl (add_sub_right_comm s.pc (immU imm20) 4#64)
  case lui => exact completesWriting_of_exec rfl rfl

end Sys2Proof.Machine

/-! ## The stores (43_stores.md): the masked address and the bytes written

The address in the spec's arithmetic, the fault of a write outside RAM, what every store does and which words decode
to one, and the two statements about them. -/

namespace Sys2Proof.Machine

/-! ### The effective address (R110) -/

/-- The mask keeps the address modulo 2^32. -/
theorem storeAddr_toNat (s : State) (rs1 : RegIx) (imm : BitVec 12) :
    (s.storeAddr rs1 imm).toNat = (wordOfInt ((s.readX rs1).toInt + imm.toInt)).toNat % 2 ^ 32 := by
  rw [State.storeAddr, BitVec.toNat_and, add_imm12]
  exact Nat.and_two_pow_sub_one_eq_mod _ 32

theorem storeAddr_lt (s : State) (rs1 : RegIx) (imm : BitVec 12) : (s.storeAddr rs1 imm).toNat < 2 ^ 32 := by
  rw [storeAddr_toNat]
  exact Nat.mod_lt _ (by decide)

/-! ### Writes outside RAM -/

theorem memWrite_of_not_inRam {s : State} {a : Word} {n : Nat} (v : Word) (hn : n = 1 ∨ n = 2 ∨ n = 4 ∨ n = 8)
    (h : ¬ InRam s a n) : s.memWrite a n v = .error (accessFault s a n) :=
  (memWrite_eq_error s a n v _ hn).mpr (busOffset_of_not_inRam h)

/-! ### What every store does -/

section Store

variable {i : Instr} {s t : State} {n : Nat} {rs2 rs1 : RegIx} {imm : BitVec 12}

/-- A store in RAM completes: the run of bytes is put into Memory and nowhere else. -/
theorem store_completesStoring (hn : n = 1 ∨ n = 2 ∨ n = 4 ∨ n = 8) (hexec : exec i s = s.store n rs2 rs1 imm)
    (hs : s.wf = true) (hram : InRam s (s.storeAddr rs1 imm) n) :
    CompletesStoring i s (s.storeAddr rs1 imm) n (s.readX rs2) := by
  refine ⟨s.setMem (writeCells s.mem (offsetOf s (s.storeAddr rs1 imm)) (leBytes n (s.readX rs2))), ?_,
    ramBecomes_writeCells _ hram.2 (memoryWf_of_wf hs), readOf_setMem_readX s _, rfl, rfl,
    readOf_setMem_csrRead s _, rfl, rfl, rfl⟩
  rw [hexec, State.store, memWrite_of_inRam _ hn hram]

/-- A store outside RAM faults as its write does, before any byte is written. -/
theorem store_faultsFrom (hn : n = 1 ∨ n = 2 ∨ n = 4 ∨ n = 8) (hexec : exec i s = s.store n rs2 rs1 imm)
    (hram : ¬ InRam s (s.storeAddr rs1 imm) n) :
    FaultsFrom (exec i s) s (accessFault s (s.storeAddr rs1 imm) n) := by
  rw [hexec, State.store, memWrite_of_not_inRam _ hn hram]
  rfl

/-- A store that completes leaves every byte from its end up, in addresses, as before. -/
theorem ramByte_of_store (hn : n = 1 ∨ n = 2 ∨ n = 4 ∨ n = 8) (h : s.store n rs2 rs1 imm = .next t) {p : Nat}
    (hp : (s.storeAddr rs1 imm).toNat + n ≤ s.cfg.ramBase.toNat + p) : t.ramByte p = s.ramByte p := by
  rcases store_cases s n rs2 rs1 imm with ⟨r, -, hfault⟩ | ⟨u, hwrite, hnext⟩
  · rw [hfault] at h
    cases h
  · obtain rfl : u = t := Host.Outcome.next.inj (hnext.symm.trans h)
    obtain ⟨hbase, -, rfl⟩ := memWrite_eq_ok _ _ _ _ _ hn hwrite
    refine getCell_writeCells_out _ _ _ p (.inr ?_)
    rw [leBytes_length]
    omega

/-- The run of a store starts below 2^32, so no byte from 2^32 + n - 1 up changes (log entry 16). -/
theorem ramByte_of_store_above (hn : n = 1 ∨ n = 2 ∨ n = 4 ∨ n = 8) (h : s.store n rs2 rs1 imm = .next t) {p : Nat}
    (hp : 2 ^ 32 + n ≤ s.cfg.ramBase.toNat + p + 1) : t.ramByte p = s.ramByte p := by
  have hlt := storeAddr_lt s rs1 imm
  exact ramByte_of_store hn h (by omega)

end Store

/-! ### Which words decode to a store -/

/-- Under opcode 0x23 the store decoder decides (30_encoding.md R76). -/
theorem decodeWord_store {hasMulw : Bool} {w : InstWord} (h : opcodeOf w = 0x23#7) :
    decodeWord hasMulw w = decodeStore w := by
  rw [decodeWord, h]; rfl

/-! ### The statements -/

/-- Settles O31: the mask bounds the address, and every store's run ends `n` bytes on (`ramByte_of_store_above`). -/
theorem storeAddressesStayBelow4GiB : Obligations.StoreAddressesStayBelow4GiB := by
  intro s t rs2 rs1 imm
  refine ⟨storeAddr_lt s rs1 imm, ?sb, ?sh, ?sw, ?sd⟩
  case sb | sh | sw | sd =>
    intro h p hp
    exact ramByte_of_store_above (by decide) h (by omega)

/-- Settles O35: each store is `State.store` with its width, so it completes or faults as its one write does. -/
theorem storesWriteTheLowBytes : Obligations.StoresWriteTheLowBytes := by
  refine ⟨?sbWord, ?shWord, ?swWord, ?sdWord, fun rs2 rs1 imm s hs => ?_⟩
  case sbWord | shWord | swWord | sdWord =>
    intro _ w ho h3
    simp only [decodeWord_store ho, decodeStore, h3]
  refine ⟨?addr, ?sb, ?sbFault, ?sh, ?shFault, ?sw, ?swFault, ?sd, ?sdFault⟩
  case addr => exact eq_ofNat_of_toNat_eq (storeAddr_toNat s rs1 imm)
  case sb | sh | sw | sd => exact store_completesStoring (by decide) rfl hs
  case sbFault | shFault | swFault | sdFault => exact store_faultsFrom (by decide) rfl

end Sys2Proof.Machine

/-! ## The AMOs (44_atomics.md): the old value returned and the new one stored

The new and the old value in the spec's arithmetic, what every AMO does and which words decode to one, and the two
statements about them. -/

namespace Sys2Proof.Machine

/-! ### The value stored (20_memory.md R52) -/

/-- The bytes stored depend only on the low bits they are taken from. -/
theorem leBytes_congr {n : Nat} {u v : Word} (h : u.setWidth (8 * n) = v.setWidth (8 * n)) :
    leBytes n u = leBytes n v := by
  have hbyte (x : Word) (k : Nat) (hk : k < n) :
      (x.setWidth (8 * n)).extractLsb' (8 * k) 8 = x.extractLsb' (8 * k) 8 :=
    BitVec.extractLsb'_setWidth_of_le (by omega)
  refine List.ext_getElem (by simp) fun k hu hv => ?_
  have hk : k < n := by simpa using hu
  rw [leBytes_getElem, leBytes_getElem, ← hbyte u k hk, ← hbyte v k hk, h]

/-- The doubleword sum is the sum of the numbers modulo 2^64 (R118). -/
theorem amoSum_ofNat (N : Nat) (b : Word) : amoSum (BitVec.ofNat 64 N) b = BitVec.ofNat 64 (N + b.toNat) := by
  rw [amoSum, BitVec.ofNat_add, BitVec.ofNat_toNat, BitVec.setWidth_eq]

/-- The low word of the sum is the sum of the low words (R116). -/
theorem trunc32_amoSum_ofNat (N : Nat) (b : Word) :
    trunc32 (amoSum (BitVec.ofNat 64 N) b) = trunc32 (BitVec.ofNat 64 (N + low32 b)) := by
  have hofNat (M : Nat) : trunc32 (BitVec.ofNat 64 M) = BitVec.ofNat 32 M := BitVec.setWidth_ofNat_of_le (by decide) M
  rw [hofNat, BitVec.ofNat_add, ← trunc32_eq_ofNat_low32, ← hofNat]
  exact BitVec.setWidth_add _ _ (by decide)

/-! ### The old word returned (R116; spec decision D16) -/

/-- AMOW_RD_EXT on the number four bytes spell. -/
theorem amowExtend_ramNat (s : State) (o : Nat) (mode : AmoExt) :
    amowExtend mode (BitVec.ofNat 64 (ramNat s o 4)) =
      if mode = .zext then BitVec.ofNat 64 (ramNat s o 4) else sextOfNat32 (ramNat s o 4) := by
  cases mode with
  | zext => exact zextLow_ramNat s o (by decide) (by decide)
  | sext => exact sextLow_ofNat (by decide) _

/-! ### What every AMO does (R115) -/

section Amo

variable {i : Instr} {s : State} {n : Nat} {combine : Word → Word → Word} {extend : Word → Word}
  {rd rs2 rs1 : RegIx}

/-- An AMO in RAM completes. Both operands are read before the first write and rd is written last, so it takes the old
value whichever register it is; the value stored counts by its low `n` bytes alone. -/
theorem amo_completesSwapping {new old : Word} (hn : n = 1 ∨ n = 2 ∨ n = 4 ∨ n = 8)
    (hexec : exec i s = s.amo n combine extend rd rs2 rs1) (hs : s.wf = true)
    (hnew : (combine (BitVec.ofNat 64 (ramNat s (offsetOf s (s.readX rs1)) n)) (s.readX rs2)).setWidth (8 * n)
      = new.setWidth (8 * n))
    (hold : extend (BitVec.ofNat 64 (ramNat s (offsetOf s (s.readX rs1)) n)) = old)
    (hram : InRam s (s.readX rs1) n) : CompletesSwapping i s (s.readX rs1) n new rd old := by
  have hstored := ramBecomes_writeCells (o := offsetOf s (s.readX rs1)) new hram.2 (memoryWf_of_wf hs)
  obtain ⟨hreg, hpc, hmode, hcsrs, -, hhidden⟩ :=
    writesOnly_writeX (s.setMem (writeCells s.mem (offsetOf s (s.readX rs1)) (leBytes n new))) rd old
  refine ⟨_, ?_, ?_, hreg, hpc, hmode, hcsrs, hhidden⟩
  · rw [hexec, State.amo, State.amoAddr, memRead_eq_ramNat hn hram]
    simp only [memWrite_of_inRam _ hn hram, leBytes_congr hnew, hold]
  · simpa only [RamBecomes, readOf_writeX_ramByte] using hstored

/-- An AMO outside RAM faults as its read does, before anything is written. -/
theorem amo_faultsFrom (hn : n = 1 ∨ n = 2 ∨ n = 4 ∨ n = 8) (hexec : exec i s = s.amo n combine extend rd rs2 rs1)
    (hram : ¬ InRam s (s.readX rs1) n) : FaultsFrom (exec i s) s (accessFault s (s.readX rs1) n) := by
  rw [hexec, State.amo, State.amoAddr, memRead_of_not_inRam hn hram]
  rfl

end Amo

/-! ### Which words decode to an AMO -/

/-- Under opcode 0x2f the AMO decoder decides (30_encoding.md R76). -/
theorem decodeWord_amo {hasMulw : Bool} {w : InstWord} (h : opcodeOf w = 0x2f#7) :
    decodeWord hasMulw w = decodeAmo w := by
  rw [decodeWord, h]; rfl

/-! ### The statements -/

/-- Settles O36: each AMO is `State.amo` on eight bytes; it returns them unextended, and `amoSum_ofNat` is the sum. -/
theorem doublewordAmosReturnTheOldValue : Obligations.DoublewordAmosReturnTheOldValue := by
  refine ⟨?addWord, ?swapWord, fun rd rs2 rs1 aq rl s hs => ⟨?add, ?addFault, ?swap, ?swapFault⟩⟩
  case addWord | swapWord =>
    intro _ w ho h3 h5
    simp only [decodeWord_amo ho, decodeAmo, h3, h5]
  case add => exact amo_completesSwapping (by decide) rfl hs (congrArg _ (amoSum_ofNat _ _)) rfl
  case swap => exact amo_completesSwapping (by decide) rfl hs rfl rfl
  case addFault | swapFault => exact amo_faultsFrom (by decide) rfl

/-- Settles O37: each AMO is `State.amo` on four bytes; they take the low word of the new value
(`trunc32_amoSum_ofNat`), and `amowExtend_ramNat` reads the old word under both settings. -/
theorem wordAmosReturnTheOldValue : Obligations.WordAmosReturnTheOldValue := by
  refine ⟨?addWord, ?swapWord, fun rd rs2 rs1 aq rl s hs => ⟨?add, ?addFault, ?swap, ?swapFault⟩⟩
  case addWord | swapWord =>
    intro _ w ho h3 h5
    simp only [decodeWord_amo ho, decodeAmo, h3, h5]
  case add => exact amo_completesSwapping (by decide) rfl hs (trunc32_amoSum_ofNat _ _) (amowExtend_ramNat s _ _)
  case swap => exact amo_completesSwapping (by decide) rfl hs rfl (amowExtend_ramNat s _ _)
  case addFault | swapFault => exact amo_faultsFrom (by decide) rfl

end Sys2Proof.Machine

/-! ## The register arithmetic, logic and multiplies (45_alu_register.md R120 to R122, R124 to R126, R129, R130, R133)

The operators on two registers as the spec's sums, differences, products and comparison, the words that HAS_MULW
decides, and the two statements. -/

namespace Sys2Proof.Machine

/-! ### Two registers in the spec's arithmetic (00_scope.md R15, R17) -/

section Operands

variable (a b : Word)

theorem add_eq_wordOfInt : a + b = wordOfInt (a.toInt + b.toInt) := by
  rw [wordOfInt, BitVec.ofInt_add, BitVec.ofInt_toInt, BitVec.ofInt_toInt]

theorem sub_eq_wordOfInt : a - b = wordOfInt (a.toInt - b.toInt) := by
  rw [wordOfInt, Int.sub_eq_add_neg, BitVec.ofInt_add, BitVec.ofInt_neg, BitVec.ofInt_toInt, BitVec.ofInt_toInt,
    BitVec.sub_eq_add_neg]

theorem mul_eq_wordOfInt : a * b = wordOfInt (a.toInt * b.toInt) := by
  rw [wordOfInt, BitVec.ofInt_mul, BitVec.ofInt_toInt, BitVec.ofInt_toInt]

theorem mul_eq_ofNat : a * b = BitVec.ofNat 64 (a.toNat * b.toNat) := by
  rw [BitVec.ofNat_mul, ← eq_ofNat_of_toNat_eq rfl, ← eq_ofNat_of_toNat_eq rfl]

theorem sext32_trunc32_mul : sext32 (trunc32 a * trunc32 b) = sextOfNat32 (low32 a * low32 b) := by
  rw [← sext32_ofNat, BitVec.ofNat_mul, ← trunc32_eq_ofNat_low32, ← trunc32_eq_ofNat_low32]

theorem boolWord_ltSigned : boolWord (ltSigned a b) = boolValue (a.toInt < b.toInt) := boolWord_decide _

end Operands

/-! ### The words of `mulw` (30_encoding.md R77; spec decision D13) -/

theorem decodeWord_mulw {w : InstWord} (ho : opcodeOf w = 0x3b#7) (h3 : funct3Of w = 0#3) (h7 : funct7Of w = 0x01#7)
    (hasMulw : Bool) :
    decodeWord hasMulw w = if hasMulw then .ok (.mulw (rdOf w) (rs1Of w) (rs2Of w)) else .error .mulwAbsent := by
  simp only [decodeWord_op32 ho, decodeOp32, h3, h7]

/-! ### The statements -/

/-- Settles O43: each instruction is one register write, its sum, difference and comparisons in the spec's arithmetic;
the model's bitwise operators are the spec's. -/
theorem registerArithmeticAndLogic : Obligations.RegisterArithmeticAndLogic := by
  refine ⟨?addWord, ?subWord, ?sltWord, ?sltuWord, ?xorWord, ?orWord, ?andWord, fun rd rs1 rs2 s => ?_⟩
  case addWord | subWord | sltWord | sltuWord | xorWord | orWord | andWord =>
    intro _ w ho h3 h7
    simp only [decodeWord_op ho, decodeOp, h3, h7]
  refine ⟨?add, ?sub, ?slt, ?sltu, ?xor, ?or, ?and⟩
  case add => exact completesWriting_of_exec rfl (add_eq_wordOfInt _ _)
  case sub => exact completesWriting_of_exec rfl (sub_eq_wordOfInt _ _)
  case slt => exact completesWriting_of_exec rfl (boolWord_ltSigned _ _)
  case sltu => exact completesWriting_of_exec rfl (boolWord_ltUnsigned _ _)
  case xor | or | and => exact completesWriting_of_exec rfl rfl

/-- Settles O44: each multiply is one register write. Modulo 2^64 the product of the operands is one value, read as
unsigned (`mul_eq_ofNat`) or as signed numbers (`mul_eq_wordOfInt`). -/
theorem multipliesKeepTheLowHalf : Obligations.MultipliesKeepTheLowHalf := by
  refine ⟨?mulWord, fun w ho h3 h7 => ⟨decodeWord_mulw ho h3 h7 true, decodeWord_mulw ho h3 h7 false⟩,
    fun rd rs1 rs2 s => ⟨?mulUnsigned, ?mulSigned, ?mulw⟩⟩
  case mulWord =>
    intro _ w ho h3 h7
    simp only [decodeWord_op ho, decodeOp, h3, h7]
  case mulUnsigned => exact completesWriting_of_exec rfl (mul_eq_ofNat _ _)
  case mulSigned => exact completesWriting_of_exec rfl (mul_eq_wordOfInt _ _)
  case mulw => exact completesWriting_of_exec rfl (sext32_trunc32_mul _ _)

end Sys2Proof.Machine

/-! ## The control transfers (46_control_transfer.md): branches, `jal` and `jalr`

What an instruction that only moves pc and one that links besides does, the comparisons and targets in the spec's
arithmetic, the words that decode to a control transfer, and the three statements about them. -/

namespace Sys2Proof.Machine

/-! ### An instruction that moves pc -/

section Transfer

variable {i : Instr} {s : State} {target : Word}

theorem completesJumping_of_exec (hexec : exec i s = .next (s.setPc target)) : CompletesJumping i s target :=
  ⟨s.setPc target, hexec, rfl, readOf_setPc_readX s target, rfl, readOf_setPc_csrRead s target,
    readOf_setPc_ramByte s target, rfl, rfl, rfl⟩

/-- A jump that links writes one register, and moving pc besides changes no other part of the state. -/
theorem completesLinking_of_exec {rd : RegIx} {link : Word}
    (hexec : exec i s = .next ((s.writeX rd link).setPc target)) : CompletesLinking i s target rd link := by
  obtain ⟨hreg, -, hmode, hcsrs, hram, hhidden⟩ := writesOnly_writeX s rd link
  exact ⟨(s.writeX rd link).setPc target, hexec, rfl, hreg, hmode, hcsrs, hram, hhidden⟩

end Transfer

/-! ### What every branch does (R137) -/

/-- Not branching leaves pc where it is; adding the offset before the 4 of the pre-advance is taken off is, modulo
2^64, the sum with pc_inst. -/
theorem branch_eq_setPc (s : State) {taken : Bool} (imm : BitVec 13) {c : Prop} [Decidable c] (hc : taken = true ↔ c) :
    s.branch taken imm = .next (s.setPc (if c then (s.pc - 4#64) + wordOfInt imm.toInt else s.pc)) := by
  by_cases h : c
  · rw [State.branch, if_pos (hc.mpr h), if_pos h, add_sub_right_comm]
    rfl
  · rw [State.branch, if_neg (mt hc.mp h), if_neg h]
    rfl

/-- A branch completes, and the comparison `c` its condition decides chooses the target. -/
theorem branch_completesJumping {i : Instr} {s : State} {taken : Bool} {imm : BitVec 13} {c : Prop} [Decidable c]
    (hexec : exec i s = s.branch taken imm) (hc : taken = true ↔ c) :
    CompletesJumping i s (if c then (s.pc - 4#64) + wordOfInt imm.toInt else s.pc) :=
  completesJumping_of_exec (hexec.trans (branch_eq_setPc s imm hc))

/-! ### The comparisons (00_scope.md R15) -/

section Comparisons

variable (a b : Word)

theorem eqWords_iff : eqWords a b = true ↔ a = b := decide_eq_true_iff

theorem ltSigned_iff : ltSigned a b = true ↔ a.toInt < b.toInt := decide_eq_true_iff

theorem ltUnsigned_iff : ltUnsigned a b = true ↔ a.toNat < b.toNat := decide_eq_true_iff

theorem not_eqWords_iff : (!eqWords a b) = true ↔ a ≠ b := by
  rw [Bool.not_eq_true', ← Bool.not_eq_true, eqWords_iff]

theorem not_ltSigned_iff : (!ltSigned a b) = true ↔ b.toInt ≤ a.toInt := by
  rw [Bool.not_eq_true', ← Bool.not_eq_true, ltSigned_iff, not_lt]

theorem not_ltUnsigned_iff : (!ltUnsigned a b) = true ↔ b.toNat ≤ a.toNat := by
  rw [Bool.not_eq_true', ← Bool.not_eq_true, ltUnsigned_iff, not_lt]

end Comparisons

/-! ### The target of `jalr` (R144) -/

/-- A register read after a write sees the value written exactly at that register, where it is not x0. -/
theorem readX_writeX_eq_ite (s : State) (rd rs1 : RegIx) (v : Word) :
    (s.writeX rd v).readX rs1 = if rd = rs1 ∧ rd ≠ 0#5 then v else s.readX rs1 := by
  rw [readX_writeX]
  by_cases hzero : rs1 = 0#5
  · have hnot : ¬ (rd = rs1 ∧ rd ≠ 0#5) := fun h => h.2 (h.1.trans hzero)
    rw [if_pos hzero, if_neg hnot, hzero, readX_zero]
  · by_cases hrd : rd = rs1
    · subst hrd
      rw [if_neg hzero, if_pos rfl, if_pos ⟨rfl, hzero⟩]
    · rw [if_neg hzero, if_neg (Ne.symm hrd), if_neg fun h => hrd h.1]

theorem jalrTarget_eq (s : State) (rs1 : RegIx) (imm : BitVec 12) :
    s.jalrTarget rs1 imm = wordOfInt ((s.readX rs1).toInt + imm.toInt) &&& ~~~1#64 := by
  rw [State.jalrTarget, add_imm12]

/-- The state SEQUENTIAL_LINK chooses to read x[rs1] in decides which value is read there (spec decision D15). -/
theorem jalrTarget_link_order (s : State) (rd rs1 : RegIx) (imm : BitVec 12) :
    (if s.cfg.sequentialLink then (s.writeX rd s.pc).jalrTarget rs1 imm else s.jalrTarget rs1 imm) =
      wordOfInt ((if s.cfg.sequentialLink = true ∧ rd = rs1 ∧ rd ≠ 0#5 then s.pc else s.readX rs1).toInt + imm.toInt)
        &&& ~~~1#64 := by
  rw [jalrTarget_eq, jalrTarget_eq, readX_writeX_eq_ite]
  by_cases hseq : s.cfg.sequentialLink = true
  · simp only [hseq, if_true, true_and]
  · rw [if_neg hseq, if_neg fun h => hseq h.1]

/-! ### Which words decode to a control transfer (30_encoding.md R76) -/

section Decode

variable {hasMulw : Bool} {w : InstWord}

theorem decodeWord_branch (h : opcodeOf w = 0x63#7) : decodeWord hasMulw w = decodeBranch w := by
  rw [decodeWord, h]; rfl

theorem decodeWord_jalr (h : opcodeOf w = 0x67#7) : decodeWord hasMulw w = decodeJalr w := by
  rw [decodeWord, h]; rfl

theorem decodeWord_jal (h : opcodeOf w = 0x6f#7) : decodeWord hasMulw w = .ok (.jal (rdOf w) (immJOf w)) := by
  rw [decodeWord, h]; rfl

end Decode

/-! ### The statements -/

/-- Settles O47: each branch is `State.branch`, and its condition decides the spec's comparison. -/
theorem branchesCompareAndJump : Obligations.BranchesCompareAndJump := by
  refine ⟨?beqWord, ?bneWord, ?bltWord, ?bgeWord, ?bltuWord, ?bgeuWord, fun rs1 rs2 imm s => ?_⟩
  case beqWord | bneWord | bltWord | bgeWord | bltuWord | bgeuWord =>
    intro _ w ho h3
    simp only [decodeWord_branch ho, decodeBranch, h3]
  refine ⟨?beq, ?bne, ?blt, ?bge, ?bltu, ?bgeu⟩
  case beq => exact branch_completesJumping rfl (eqWords_iff _ _)
  case bne => exact branch_completesJumping rfl (not_eqWords_iff _ _)
  case blt => exact branch_completesJumping rfl (ltSigned_iff _ _)
  case bge => exact branch_completesJumping rfl (not_ltSigned_iff _ _)
  case bltu => exact branch_completesJumping rfl (ltUnsigned_iff _ _)
  case bgeu => exact branch_completesJumping rfl (not_ltUnsigned_iff _ _)

/-- Settles O48: `jal` links and jumps, its target as in a branch the sum with pc_inst modulo 2^64. -/
theorem jalLinksAndJumps : Obligations.JalLinksAndJumps := by
  refine ⟨fun _ _ => decodeWord_jal, fun rd imm s => ?_⟩
  have htarget : s.pc + immJ imm - 4#64 = (s.pc - 4#64) + wordOfInt imm.toInt :=
    add_sub_right_comm s.pc (immJ imm) 4#64
  rw [← htarget]
  exact completesLinking_of_exec rfl

/-- Settles O49: `jalr` links and jumps, and `jalrTarget_link_order` is its target under both link orders. -/
theorem jalrLinksAndJumps : Obligations.JalrLinksAndJumps := by
  refine ⟨?jalrWord, fun rd rs1 imm s => ?_⟩
  case jalrWord =>
    intro _ w ho h3
    simp only [decodeWord_jalr ho, decodeJalr, h3]
  rw [← jalrTarget_link_order]
  exact completesLinking_of_exec rfl

end Sys2Proof.Machine

/-! ## The system instructions (47_system.md): CSR access, the returns from a trap and `sfence.vma`

The operand of the CSR instructions and the status words of the returns, bit by bit, what an instruction that writes a
CSR does, the words that decode to a system instruction, and the six statements about them. -/

namespace Sys2Proof.Machine

/-! ### CSR access (R148) -/

section CsrAccess

variable {i : Instr} {s : State} {rd rs1 : RegIx} {csr : CsrAddr} {new : Word → Word → Word} {v old : Word}

/-- A CSR write and then a register write change that CSR and that register, and neither disturbs the other. -/
theorem completesCsr_of_exec (hs : s.wf = true) (hexec : exec i s = .next ((s.csrWrite csr v).writeX rd old)) :
    CompletesCsr i s csr v rd old := by
  have hcsr := csrWrite_becomes s csr v (csrBankWf_of_wf hs)
  obtain ⟨hreg, hpc, hmode, -, hram, hf, hstatus, hcfg⟩ := writesOnly_writeX (s.csrWrite csr v) rd old
  refine ⟨(s.csrWrite csr v).writeX rd old, hexec, ?_, ?_, hpc.trans (csrWrite_pc s csr v),
    hmode.trans (csrWrite_mode s csr v), fun o => (hram o).trans (readOf_csrWrite_ramByte s csr v o),
    hf.trans (csrWrite_f s csr v), hstatus.trans (csrWrite_status s csr v), hcfg.trans (csrWrite_cfg s csr v)⟩
  · simpa only [CsrBecomes, readOf_writeX_csrSlot] using hcsr
  · simpa only [RegBecomes, readOf_csrWrite_readX] using hreg

/-- In the default order a register form reads x[rs1] before it writes anything. -/
theorem csrRegister_default (hlink : s.cfg.sequentialLink = false) :
    s.csrRegister new rd csr rs1 =
      .next ((s.csrWrite csr (new (s.csrRead csr) (s.readX rs1))).writeX rd (s.csrRead csr)) := by
  rw [csrRegister_cases, if_neg (Bool.eq_false_iff.mp hlink)]

/-- In the order of the source's sentences it reads x[rs1] after it wrote rd (spec decision D15). -/
theorem csrRegister_sequential (hlink : s.cfg.sequentialLink = true) :
    s.csrRegister new rd csr rs1 =
      .next ((s.csrWrite csr (new (s.csrRead csr) (if rd = rs1 ∧ rd ≠ 0#5 then s.csrRead csr else s.readX rs1))).writeX
        rd (s.csrRead csr)) := by
  rw [csrRegister_cases, if_pos hlink, readX_writeX_eq_ite]

theorem immZ_eq_ofNat (zimm : BitVec 5) : immZ zimm = BitVec.ofNat 64 zimm.toNat :=
  eq_ofNat_of_toNat_eq (BitVec.toNat_setWidth_of_le (by decide))

end CsrAccess

/-! ### The status words of the returns, bit by bit (R155, R156) -/

section Status

variable (v : Word) {k : Nat}

theorem withBit_getLsbD (i : Nat) (b : Bool) (hk : k < 64) :
    (withBit v i b).getLsbD k = if k = i then b else v.getLsbD k := by
  have hbit : (1#64 <<< i).getLsbD k = decide (k = i) := by
    rw [BitVec.getLsbD_shiftLeft, BitVec.getLsbD_one, decide_eq_true hk]
    grind
  cases b
  · rw [withBit, if_neg Bool.false_ne_true, BitVec.getLsbD_and, BitVec.getLsbD_not, hbit, decide_eq_true hk]
    by_cases h : k = i <;> simp [h]
  · rw [withBit, if_pos rfl, BitVec.getLsbD_or, hbit]
    by_cases h : k = i <;> simp [h]

/-- The three fields `sret` writes are different bits, so the order of the writes does not matter. -/
theorem sretStatus_getLsbD (hk : k < 64) :
    (sretStatus v).getLsbD k =
      if k = 1 then v.getLsbD 5 else if k = 5 then true else if k = 8 then false else v.getLsbD k := by
  simp only [sretStatus, withBit_getLsbD _ _ _ hk]
  grind

/-- As `sretStatus_getLsbD`, MPP being two bits. -/
theorem mretStatus_getLsbD (hk : k < 64) :
    (mretStatus v).getLsbD k =
      if k = 3 then v.getLsbD 7 else if k = 7 then true else if k = 11 ∨ k = 12 then false else v.getLsbD k := by
  simp only [mretStatus, withBit_getLsbD _ _ _ hk]
  grind

end Status

/-! ### What a return from a trap does -/

section Return

variable {i : Instr} {s : State} {target : Word} {m : Mode} {csr : CsrAddr} {v : Word}

theorem completesReturning_of_exec (hs : s.wf = true) (hexec : exec i s = .next (s.trapReturn target m csr v)) :
    CompletesReturning i s target m csr v :=
  ⟨s.trapReturn target m csr v, hexec, trapReturn_pc s target m csr v, trapReturn_mode s target m csr v,
    csrWrite_becomes ((s.setPc target).setMode m) csr v (csrBankWf_of_wf hs),
    readOf_csrWrite_readX ((s.setPc target).setMode m) csr v,
    readOf_csrWrite_ramByte ((s.setPc target).setMode m) csr v,
    trapReturn_f s target m csr v, trapReturn_status s target m csr v, trapReturn_cfg s target m csr v⟩

/-- Where MPP is not reserved, or the switch names a mode for it, `mret` finds the mode `nextMode` says. -/
theorem mretMode_eq_nextMode (h : (s.csrRead 0x300#12).extractLsb' 11 2 ≠ 2#2 ∨ s.cfg.mpp2Behaviour ≠ .fault) :
    mretMode s.cfg.mpp2Behaviour (s.csrRead 0x300#12) = some (nextMode s .mret) := by
  simp only [mretMode, nextMode]
  generalize (s.csrRead 0x300#12).extractLsb' 11 2 = mpp at *
  generalize s.cfg.mpp2Behaviour = behaviour at *
  revert mpp
  cases behaviour <;> decide

theorem execMret_of_mode (h : mretMode s.cfg.mpp2Behaviour (s.csrRead 0x300#12) = some m) :
    execMret s = .next (s.trapReturn (s.csrRead 0x341#12) m 0x300#12 (mretStatus (s.csrRead 0x300#12))) := by
  simp only [execMret, csrMSTATUS, csrMEPC, h]

theorem execMret_of_reserved (h : mretMode s.cfg.mpp2Behaviour (s.csrRead 0x300#12) = none) :
    execMret s = s.raise (.reservedMPP (s.csrRead 0x300#12)) := by
  simp only [execMret, csrMSTATUS, h]

end Return

/-! ### Which words decode to a system instruction (30_encoding.md R76, R77) -/

section Decode

variable {hasMulw : Bool} {w : InstWord}

theorem decodeWord_system (h : opcodeOf w = 0x73#7) : decodeWord hasMulw w = decodeSystem w := by
  rw [decodeWord, h]; rfl

/-- The words of `sret` and `mret` have another funct7. -/
theorem decodePrivileged_sfenceVma (h7 : funct7Of w = 0x09#7) (hrd : rdOf w = 0#5) :
    decodePrivileged w = .ok (.sfenceVma (rs1Of w) (rs2Of w)) := by
  have hsret : w ≠ 0x10200073#32 := by rintro rfl; exact absurd h7 (by decide)
  have hmret : w ≠ 0x30200073#32 := by rintro rfl; exact absurd h7 (by decide)
  rw [decodePrivileged, if_neg hsret, if_neg hmret, if_pos ⟨h7, hrd⟩]

end Decode

/-! ### The statements -/

/-- Settles O50: each form is `State.csrRegister`, under the default order `csrRegister_default`. -/
theorem csrRegisterForms : Obligations.CsrRegisterForms := by
  refine ⟨?csrrwWord, ?csrrsWord, ?csrrcWord, fun rd csr rs1 s hs hlink => ?_⟩
  case csrrwWord | csrrsWord | csrrcWord =>
    intro _ w ho h3
    rw [decodeWord_system ho, decodeSystem, h3]
    rfl
  refine ⟨?csrrw, ?csrrs, ?csrrc⟩
  case csrrw | csrrs | csrrc => exact completesCsr_of_exec hs (csrRegister_default hlink)

/-- Settles O51: as O50, under the other order `csrRegister_sequential`. -/
theorem csrRegisterFormsSequential : Obligations.CsrRegisterFormsSequential := by
  intro rd csr rs1 s hs hlink
  refine ⟨?csrrw, ?csrrs, ?csrrc⟩
  case csrrw | csrrs | csrrc => exact completesCsr_of_exec hs (csrRegister_sequential hlink)

/-- Settles O52: each form is `State.csrImmediate`, its operand the immediate's number. -/
theorem csrImmediateForms : Obligations.CsrImmediateForms := by
  refine ⟨?csrrwiWord, ?csrrsiWord, ?csrrciWord, fun rd csr zimm s hs => ?_⟩
  case csrrwiWord | csrrsiWord | csrrciWord =>
    intro _ w ho h3
    rw [decodeWord_system ho, decodeSystem, h3]
    rfl
  rw [← immZ_eq_ofNat]
  refine ⟨?csrrwi, ?csrrsi, ?csrrci⟩
  case csrrwi | csrrsi | csrrci => exact completesCsr_of_exec hs rfl

/-- Settles O53: `sret` is one return from a trap, and the status word it writes is `sretStatus`. -/
theorem sretRestoresFromSstatus : Obligations.SretRestoresFromSstatus :=
  ⟨fun _ => rfl, fun s hs =>
    ⟨sretStatus (s.csrRead 0x100#12), fun _ => sretStatus_getLsbD _, completesReturning_of_exec hs rfl⟩⟩

/-- Settles O54: where a mode is found `mret` is one return from a trap that writes `mretStatus`; none is found exactly
where MPP is 2 and the switch says fault (`mretMode_eq_none`). -/
theorem mretRestoresFromMstatus : Obligations.MretRestoresFromMstatus := by
  refine ⟨fun _ => rfl, fun s hs => ⟨fun hmode => ?completes, fun hmpp hfault => ?faults⟩⟩
  case completes =>
    exact ⟨mretStatus (s.csrRead 0x300#12), fun _ => mretStatus_getLsbD _,
      completesReturning_of_exec hs (execMret_of_mode (mretMode_eq_nextMode hmode))⟩
  case faults => exact execMret_of_reserved ((mretMode_eq_none _ _).mpr ⟨hfault, hmpp⟩)

/-- Settles O55: the decoder's third test is the fields of `sfence.vma`, whose meaning is the state itself. -/
theorem sfenceVmaDoesNothing : Obligations.SfenceVmaDoesNothing := by
  refine ⟨fun _ w ho h3 h7 hrd => ?_, fun _ _ _ => rfl⟩
  rw [decodeWord_system ho, decodeSystem, h3]
  exact decodePrivileged_sfenceVma h7 hrd

end Sys2Proof.Machine

/-! ## The encoder and the decoder (30_encoding.md): each undoes the other, and both agree with the opcode table

Each word as the word of its own fields, one lemma per format; the decoder's families read against the encoder; the
table's rows read against the decoder; and the six statements about words. -/

namespace Sys2Proof.Machine

/-! ### Decoding an encoded instruction -/

theorem decodeWord_load {hasMulw : Bool} {w : InstWord} (h : opcodeOf w = 0x03#7) :
    decodeWord hasMulw w = decodeLoad w := by
  rw [decodeWord, h]; rfl

/-- Settles O1: a format gives each field back, so the opcode selects the family and the selectors the instruction;
`mulw` needs its switch, and an even offset survives the encoding. -/
theorem decodeOfEncodeIsIdentity : Obligations.DecodeOfEncodeIsIdentity := by
  intro hasMulw i hwf
  cases i
  case lb | lh | lw | ld | lbu | lhu | lwu =>
    rw [encode, decodeWord_load (opcodeOf_iWord ..)]
    simp [decodeLoad]
  case addi | slti | sltiu | xori | ori | andi =>
    rw [encode, decodeWord_opImm (opcodeOf_iWord ..)]
    simp [decodeOpImm]
  case slli | srli | srai =>
    rw [encode, decodeWord_opImm (opcodeOf_shift64Word ..)]
    simp [decodeOpImm]
  case addiw =>
    rw [encode, decodeWord_opImm32 (opcodeOf_iWord ..)]
    simp [decodeOpImm32]
  case slliw | srliw | sraiw =>
    rw [encode, decodeWord_opImm32 (opcodeOf_shift32Word ..)]
    simp [decodeOpImm32]
  case auipc | lui =>
    rw [encode, decodeWord, opcodeOf_uWord]
    simp [familyOf]
  case sb | sh | sw | sd =>
    rw [encode, decodeWord_store (opcodeOf_sWord ..)]
    simp [decodeStore]
  case amoaddW | amoswapW | amoaddD | amoswapD =>
    rw [encode, decodeWord_amo (opcodeOf_amoWord ..)]
    simp [decodeAmo]
  case add | sub | mul | sll | slt | sltu | xor | srl | sra | or | and =>
    rw [encode, decodeWord_op (opcodeOf_rWord ..)]
    simp [decodeOp]
  case addw | subw | sllw | srlw | sraw =>
    rw [encode, decodeWord_op32 (opcodeOf_rWord ..)]
    simp [decodeOp32]
  case mulw =>
    have hon : hasMulw = true := hwf
    rw [encode, decodeWord_op32 (opcodeOf_rWord ..)]
    simp [decodeOp32, hon]
  case beq | bne | blt | bge | bltu | bgeu =>
    rw [encode, decodeWord_branch (opcodeOf_bWord ..)]
    simp [decodeBranch, immBOf_bWord _ _ _ _ hwf]
  case jalr =>
    rw [encode, decodeWord_jalr (opcodeOf_iWord ..)]
    simp [decodeJalr]
  case jal =>
    rw [encode, decodeWord_jal (opcodeOf_jWord ..), rdOf_jWord, immJOf_jWord _ _ hwf]
  case csrrw | csrrs | csrrc | csrrwi | csrrsi | csrrci =>
    rw [encode, decodeWord_system (opcodeOf_iWord ..)]
    simp [decodeSystem]
  case sret | mret => rfl
  case sfenceVma =>
    rw [encode, decodeWord_system (opcodeOf_rWord ..), decodeSystem, funct3Of_rWord]
    exact (decodePrivileged_sfenceVma (funct7Of_rWord ..) (rdOf_rWord ..)).trans (by simp)

/-! ### A word is the word of its fields (30_encoding.md R70) -/

section Formats

variable {w : InstWord} {op f7 : BitVec 7} {f3 : BitVec 3}

theorem rWord_of_fields (ho : opcodeOf w = op) (h3 : funct3Of w = f3) (h7 : funct7Of w = f7) :
    rWord f7 (rs2Of w) (rs1Of w) f3 (rdOf w) op = w := by
  subst ho h3 h7
  apply BitVec.eq_of_getLsbD_eq
  intro k hk
  simp only [rWord_getLsbD, funct7Of, rs2Of, rs1Of, funct3Of, rdOf, opcodeOf, BitVec.getLsbD_extractLsb']
  grind

theorem iWord_of_fields (ho : opcodeOf w = op) (h3 : funct3Of w = f3) :
    iWord (immIOf w) (rs1Of w) f3 (rdOf w) op = w := by
  subst ho h3
  apply BitVec.eq_of_getLsbD_eq
  intro k hk
  simp only [iWord_getLsbD, immIOf, rs1Of, funct3Of, rdOf, opcodeOf, BitVec.getLsbD_extractLsb']
  grind

theorem shift64Word_of_fields {f6 : BitVec 6} (ho : opcodeOf w = 0x13#7) (h3 : funct3Of w = f3)
    (h6 : funct6Of w = f6) : shift64Word f6 (shamt6Of w) (rs1Of w) f3 (rdOf w) = w := by
  subst h3 h6
  apply BitVec.eq_of_getLsbD_eq
  intro k hk
  rw [shift64Word_getLsbD, ← ho]
  simp only [funct6Of, shamt6Of, rs1Of, funct3Of, rdOf, opcodeOf, BitVec.getLsbD_extractLsb']
  grind

theorem funct7Of_eq_funct5_aq_rl (w : InstWord) :
    funct7Of w = funct5Of w ++ BitVec.ofBool (aqOf w) ++ BitVec.ofBool (rlOf w) := by
  apply BitVec.eq_of_getLsbD_eq
  intro k hk
  rw [BitVec.getLsbD_append, BitVec.getLsbD_append]
  simp only [funct7Of, funct5Of, aqOf, rlOf, BitVec.getLsbD_extractLsb']
  interval_cases k <;> simp

/-- An AMO's word is of format R, its funct7 made of funct5, aq and rl. -/
theorem amoWord_of_fields {f5 : BitVec 5} (ho : opcodeOf w = 0x2f#7) (h3 : funct3Of w = f3) (h5 : funct5Of w = f5) :
    amoWord f5 (aqOf w) (rlOf w) (rs2Of w) (rs1Of w) f3 (rdOf w) = w :=
  rWord_of_fields ho h3 (h5 ▸ funct7Of_eq_funct5_aq_rl w)

theorem uWord_of_fields (ho : opcodeOf w = op) : uWord (imm20Of w) (rdOf w) op = w := by
  subst ho
  apply BitVec.eq_of_getLsbD_eq
  intro k hk
  simp only [uWord_getLsbD, imm20Of, rdOf, opcodeOf, BitVec.getLsbD_extractLsb']
  grind

theorem sWord_of_fields (ho : opcodeOf w = 0x23#7) (h3 : funct3Of w = f3) :
    sWord (immSOf w) (rs2Of w) (rs1Of w) f3 = w := by
  subst h3
  apply BitVec.eq_of_getLsbD_eq
  intro k hk
  rw [sWord_getLsbD, ← ho]
  simp only [immSOf_getLsbD, rs2Of, rs1Of, funct3Of, opcodeOf, BitVec.getLsbD_extractLsb']
  grind

theorem bWord_of_fields (ho : opcodeOf w = 0x63#7) (h3 : funct3Of w = f3) :
    bWord (immBOf w) (rs2Of w) (rs1Of w) f3 = w := by
  subst h3
  apply BitVec.eq_of_getLsbD_eq
  intro k hk
  rw [bWord_getLsbD, ← ho]
  simp only [immBOf_getLsbD, rs2Of, rs1Of, funct3Of, opcodeOf, BitVec.getLsbD_extractLsb']
  grind

theorem jWord_of_fields (ho : opcodeOf w = 0x6f#7) : jWord (immJOf w) (rdOf w) = w := by
  apply BitVec.eq_of_getLsbD_eq
  intro k hk
  rw [jWord_getLsbD, ← ho]
  simp only [immJOf_getLsbD, rdOf, opcodeOf, BitVec.getLsbD_extractLsb']
  grind

end Formats

/-! ### Encoding a decoded instruction -/

/-- On a core of this HAS_MULW the instruction exists, and its word is `w`. -/
def EncodesTo (hasMulw : Bool) (i : Instr) (w : InstWord) : Prop :=
  i.wellFormed hasMulw = true ∧ encode i = w

section Families

variable {hasMulw : Bool} {w : InstWord} {i : Instr}

theorem encodesTo_of_decodeLoad (ho : opcodeOf w = 0x03#7) (h : decodeLoad w = .ok i) : EncodesTo hasMulw i w := by
  unfold decodeLoad at h
  split at h <;> cases h <;> exact ⟨rfl, iWord_of_fields ho ‹_›⟩

theorem encodesTo_of_decodeOpImm (ho : opcodeOf w = 0x13#7) (h : decodeOpImm w = .ok i) :
    EncodesTo hasMulw i w := by
  unfold decodeOpImm at h
  split at h
  case h_2 | h_6 => split at h <;> cases h <;> exact ⟨rfl, shift64Word_of_fields ho ‹_› ‹_›⟩
  all_goals cases h <;> exact ⟨rfl, iWord_of_fields ho ‹_›⟩

/-- A shift amount of five bits stands where rs2 does, so these words are of format R. -/
theorem encodesTo_of_decodeOpImm32 (ho : opcodeOf w = 0x1b#7) (h : decodeOpImm32 w = .ok i) :
    EncodesTo hasMulw i w := by
  unfold decodeOpImm32 at h
  split at h
  case h_2 | h_3 => split at h <;> cases h <;> exact ⟨rfl, rWord_of_fields ho ‹_› ‹_›⟩
  all_goals cases h <;> exact ⟨rfl, iWord_of_fields ho ‹_›⟩

theorem encodesTo_of_decodeStore (ho : opcodeOf w = 0x23#7) (h : decodeStore w = .ok i) : EncodesTo hasMulw i w := by
  unfold decodeStore at h
  split at h <;> cases h <;> exact ⟨rfl, sWord_of_fields ho ‹_›⟩

theorem encodesTo_of_decodeAmo (ho : opcodeOf w = 0x2f#7) (h : decodeAmo w = .ok i) : EncodesTo hasMulw i w := by
  unfold decodeAmo at h
  split at h
  case h_3 => cases h
  all_goals split at h <;> cases h <;> exact ⟨rfl, amoWord_of_fields ho ‹_› ‹_›⟩

theorem encodesTo_of_decodeOp (ho : opcodeOf w = 0x33#7) (h : decodeOp w = .ok i) : EncodesTo hasMulw i w := by
  unfold decodeOp at h
  split at h
  case h_4 => cases h
  all_goals split at h <;> cases h <;> exact ⟨rfl, rWord_of_fields ho ‹_› ‹_›⟩

/-- The decoder asks for HAS_MULW where well-formedness does. -/
theorem encodesTo_of_decodeOp32 (ho : opcodeOf w = 0x3b#7) (h : decodeOp32 hasMulw w = .ok i) :
    EncodesTo hasMulw i w := by
  unfold decodeOp32 at h
  split at h
  case h_4 => cases h
  case h_3 =>
    split at h
    · split at h
      · next hmulw =>
        cases h
        exact ⟨hmulw, rWord_of_fields ho ‹_› ‹_›⟩
      · cases h
    · cases h
  all_goals split at h <;> cases h <;> exact ⟨rfl, rWord_of_fields ho ‹_› ‹_›⟩

/-- A decoded branch offset is even. -/
theorem encodesTo_of_decodeBranch (ho : opcodeOf w = 0x63#7) (h : decodeBranch w = .ok i) :
    EncodesTo hasMulw i w := by
  unfold decodeBranch at h
  split at h <;> cases h <;> exact ⟨evenOffset_immBOf w, bWord_of_fields ho ‹_›⟩

theorem encodesTo_of_decodeJalr (ho : opcodeOf w = 0x67#7) (h : decodeJalr w = .ok i) : EncodesTo hasMulw i w := by
  unfold decodeJalr at h
  split at h <;> cases h
  exact ⟨rfl, iWord_of_fields ho ‹_›⟩

theorem encodesTo_of_decodePrivileged (ho : opcodeOf w = 0x73#7) (h3 : funct3Of w = 0#3)
    (h : decodePrivileged w = .ok i) : EncodesTo hasMulw i w := by
  unfold decodePrivileged at h
  split_ifs at h with hsret hmret hsfence <;> cases h
  · exact ⟨rfl, hsret.symm⟩
  · exact ⟨rfl, hmret.symm⟩
  · obtain ⟨h7, hrd⟩ := hsfence
    have hword := rWord_of_fields ho h3 h7
    rw [hrd] at hword
    exact ⟨rfl, hword⟩

theorem encodesTo_of_decodeSystem (ho : opcodeOf w = 0x73#7) (h : decodeSystem w = .ok i) :
    EncodesTo hasMulw i w := by
  unfold decodeSystem at h
  split at h
  case h_1 h3 => exact encodesTo_of_decodePrivileged ho h3 h
  all_goals cases h <;> exact ⟨rfl, iWord_of_fields ho ‹_›⟩

end Families

/-- A decodable word has the opcode of one of the thirteen families. -/
theorem opcodeOf_of_decodeWord {hasMulw : Bool} {w : InstWord} {i : Instr} (h : decodeWord hasMulw w = .ok i) :
    ∃ f, opcodeOf w = opcodeOfFamily f := by
  unfold decodeWord at h
  cases hf : familyOf (opcodeOf w) with
  | none => simp [hf] at h
  | some f => exact ⟨f, eq_opcodeOfFamily hf⟩

/-- Settles O2: in its family a decoded word is the word of the operands taken from it. -/
theorem encodeOfDecodeIsIdentity : Obligations.EncodeOfDecodeIsIdentity := by
  intro hasMulw w i h
  obtain ⟨f, ho⟩ := opcodeOf_of_decodeWord h
  cases f
  case load => exact encodesTo_of_decodeLoad ho (decodeWord_load ho ▸ h)
  case opImm => exact encodesTo_of_decodeOpImm ho (decodeWord_opImm ho ▸ h)
  case opImm32 => exact encodesTo_of_decodeOpImm32 ho (decodeWord_opImm32 ho ▸ h)
  case store => exact encodesTo_of_decodeStore ho (decodeWord_store ho ▸ h)
  case amo => exact encodesTo_of_decodeAmo ho (decodeWord_amo ho ▸ h)
  case op => exact encodesTo_of_decodeOp ho (decodeWord_op ho ▸ h)
  case op32 => exact encodesTo_of_decodeOp32 ho (decodeWord_op32 ho ▸ h)
  case branch => exact encodesTo_of_decodeBranch ho (decodeWord_branch ho ▸ h)
  case jalr => exact encodesTo_of_decodeJalr ho (decodeWord_jalr ho ▸ h)
  case system => exact encodesTo_of_decodeSystem ho (decodeWord_system ho ▸ h)
  case auipc | lui =>
    rw [decodeWord, ho] at h
    cases h
    exact ⟨rfl, uWord_of_fields ho⟩
  case jal =>
    rw [decodeWord_jal ho] at h
    cases h
    exact ⟨evenOffset_immJOf w, jWord_of_fields ho⟩

/-! ### Every listed word is decoded -/

/-- Every word under a row of the table, on a core that has its instruction, decodes to one of its mnemonic. -/
def RowDecodes (row : OpcodeRow) : Prop :=
  ∀ (hasMulw : Bool) (w : InstWord), w &&& row.mask = row.bits → (row.mnemonic = "mulw" → hasMulw = true) →
    ∃ i, decodeWord hasMulw w = .ok i ∧ mnemonicOf i = row.mnemonic

section Rows

variable {w mask bits : InstWord}

/-- A field that a mask covers is the field of the bits the mask leaves. -/
theorem extractLsb'_of_masked {start len : Nat} (h : w &&& mask = bits)
    (hmask : mask.extractLsb' start len = BitVec.allOnes len := by decide) :
    w.extractLsb' start len = bits.extractLsb' start len := by
  rw [← h, BitVec.extractLsb'_and, hmask, BitVec.and_allOnes]

theorem opcodeOf_of_masked (h : w &&& mask = bits) (hmask : opcodeOf mask = BitVec.allOnes 7 := by decide) :
    opcodeOf w = opcodeOf bits := extractLsb'_of_masked h hmask

theorem funct3Of_of_masked (h : w &&& mask = bits) (hmask : funct3Of mask = BitVec.allOnes 3 := by decide) :
    funct3Of w = funct3Of bits := extractLsb'_of_masked h hmask

theorem funct5Of_of_masked (h : w &&& mask = bits) (hmask : funct5Of mask = BitVec.allOnes 5 := by decide) :
    funct5Of w = funct5Of bits := extractLsb'_of_masked h hmask

theorem funct6Of_of_masked (h : w &&& mask = bits) (hmask : funct6Of mask = BitVec.allOnes 6 := by decide) :
    funct6Of w = funct6Of bits := extractLsb'_of_masked h hmask

theorem funct7Of_of_masked (h : w &&& mask = bits) (hmask : funct7Of mask = BitVec.allOnes 7 := by decide) :
    funct7Of w = funct7Of bits := extractLsb'_of_masked h hmask

end Rows

/-- A row's mask covers the opcode and the selectors its family's decoder reads, so its bits fix them. -/
theorem rowDecodes_of_mem : ∀ row ∈ opcodeRows, RowDecodes row := by
  simp only [opcodeRows, opcodeRowsPartA, opcodeRowsPartB, opcodeRowsPartC, opcodeRowsPartD, List.cons_append,
    List.nil_append, List.forall_mem_cons, List.not_mem_nil, false_imp_iff, implies_true, and_true]
  refine ⟨?lb, ?lh, ?lw, ?ld, ?lbu, ?lhu, ?lwu, ?addi, ?slti, ?sltiu, ?xori, ?ori, ?andi, ?slli, ?srli, ?srai, ?addiw,
    ?slliw, ?srliw, ?sraiw, ?auipc, ?lui, ?sb, ?sh, ?sw, ?sd, ?amoaddW, ?amoswapW, ?amoaddD, ?amoswapD, ?add,
    ?sub, ?mul, ?sll, ?slt, ?sltu, ?xor, ?srl, ?sra, ?or, ?and, ?addw, ?subw, ?mulw, ?sllw, ?srlw, ?sraw,
    ?beq, ?bne, ?blt, ?bge, ?bltu, ?bgeu, ?jalr, ?jal, ?csrrw, ?csrrs, ?csrrc, ?csrrwi, ?csrrsi, ?csrrci,
    ?sret, ?mret, ?sfenceVma⟩
  all_goals intro hasMulw w hbits hmulw
  case sret | mret =>
    obtain rfl := (BitVec.and_allOnes (x := w)).symm.trans hbits
    exact ⟨_, rfl, rfl⟩
  all_goals have ho := opcodeOf_of_masked hbits
  case auipc | lui | jal =>
    rw [decodeWord, ho]
    exact ⟨_, rfl, rfl⟩
  all_goals have h3 := funct3Of_of_masked hbits
  case lb | lh | lw | ld | lbu | lhu | lwu =>
    rw [decodeWord_load ho, decodeLoad, h3]
    exact ⟨_, rfl, rfl⟩
  case addi | slti | sltiu | xori | ori | andi =>
    rw [decodeWord_opImm ho, decodeOpImm, h3]
    exact ⟨_, rfl, rfl⟩
  case slli | srli | srai =>
    rw [decodeWord_opImm ho, decodeOpImm, h3, funct6Of_of_masked hbits]
    exact ⟨_, rfl, rfl⟩
  case addiw =>
    rw [decodeWord_opImm32 ho, decodeOpImm32, h3]
    exact ⟨_, rfl, rfl⟩
  case slliw | srliw | sraiw =>
    rw [decodeWord_opImm32 ho, decodeOpImm32, h3, funct7Of_of_masked hbits]
    exact ⟨_, rfl, rfl⟩
  case sb | sh | sw | sd =>
    rw [decodeWord_store ho, decodeStore, h3]
    exact ⟨_, rfl, rfl⟩
  case amoaddW | amoswapW | amoaddD | amoswapD =>
    rw [decodeWord_amo ho, decodeAmo, h3, funct5Of_of_masked hbits]
    exact ⟨_, rfl, rfl⟩
  case add | sub | mul | sll | slt | sltu | xor | srl | sra | or | and =>
    rw [decodeWord_op ho, decodeOp, h3, funct7Of_of_masked hbits]
    exact ⟨_, rfl, rfl⟩
  case addw | subw | sllw | srlw | sraw =>
    rw [decodeWord_op32 ho, decodeOp32, h3, funct7Of_of_masked hbits]
    exact ⟨_, rfl, rfl⟩
  case mulw =>
    rw [decodeWord_mulw ho h3 (funct7Of_of_masked hbits), if_pos (hmulw rfl)]
    exact ⟨_, rfl, rfl⟩
  case beq | bne | blt | bge | bltu | bgeu =>
    rw [decodeWord_branch ho, decodeBranch, h3]
    exact ⟨_, rfl, rfl⟩
  case jalr =>
    rw [decodeWord_jalr ho, decodeJalr, h3]
    exact ⟨_, rfl, rfl⟩
  case csrrw | csrrs | csrrc | csrrwi | csrrsi | csrrci =>
    rw [decodeWord_system ho, decodeSystem, h3]
    exact ⟨_, rfl, rfl⟩
  case sfenceVma =>
    have hrd : rdOf w = 0#5 := extractLsb'_of_masked hbits
    rw [decodeWord_system ho, decodeSystem, h3]
    exact ⟨_, decodePrivileged_sfenceVma (funct7Of_of_masked hbits) hrd, rfl⟩

/-- Settles O3: a decoded word is listed under its mnemonic (`listedAs_of_decodeWord`), and every row decodes. -/
theorem decodeAcceptsExactlyTheTableRows : Obligations.DecodeAcceptsExactlyTheTableRows := by
  intro hasMulw w m
  constructor
  · rintro ⟨i, hd, rfl⟩
    exact listedAs_of_decodeWord hd
  · rintro ⟨row, hrow, rfl, hbits, hmulw⟩
    exact rowDecodes_of_mem row hrow hasMulw w hbits hmulw

/-! ### Words the decoder accepts and rejects -/

/-- Settles O4, by evaluating the decoder on each word. -/
theorem writtenOutWordsDecode : Obligations.WrittenOutWordsDecode := by
  unfold Obligations.WrittenOutWordsDecode
  and_intros
  all_goals rfl

/-- Settles O5, by evaluating the decoder on each word; none is of `mulw`, the only row that reads HAS_MULW. -/
theorem standardWordsOutsideTheSetAreRejected : Obligations.StandardWordsOutsideTheSetAreRejected := by
  intro hasMulw
  simp only [unlistedWords, List.forall_mem_cons, List.not_mem_nil, false_imp_iff, implies_true, and_true]
  and_intros
  all_goals exact ⟨_, rfl⟩

/-- Settles O6: a word that decodes has the opcode of a family, and each of the thirteen ends in binary 11. -/
theorem compressedEncodingsAreRejected : Obligations.CompressedEncodingsAreRejected := by
  intro hasMulw w hlow
  cases hd : decodeWord hasMulw w with
  | error e => exact ⟨e, rfl⟩
  | ok i =>
    obtain ⟨f, ho⟩ := opcodeOf_of_decodeWord hd
    have hsub : (opcodeOf w).extractLsb' 0 2 = w.extractLsb' 0 2 := BitVec.extractLsb'_extractLsb'_of_le (by decide)
    rw [← hsub, ho] at hlow
    exact absurd (by cases f <;> rfl) hlow

end Sys2Proof.Machine

/-! ## Construction (70_reset_and_hazards.md; 10_state.md): the core an image makes

The state a construction that succeeds answers, and the five statements about constructed cores and the reset one. -/

namespace Sys2Proof.Machine

/-- The core that `construct` makes of an image it accepts (10_state.md R46). -/
def constructedCore (cfg : Config) (d : Draws) (image : List Byte) : State where
  cfg := cfg
  pc := cfg.ramBase
  x := (d.gpr.set 0 0#64).set 2 (cfg.ramBase + BitVec.ofNat 64 cfg.ramSize)
  f := d.fpr
  csr := d.csr
  mode := .machine
  mem := writeCells d.ram 0 image
  status := .running

section Construct

variable {cfg : Config} {d : Draws} {image : List Byte} {t : State}

theorem construct_eq_ok_iff : State.construct cfg d image = .ok t ↔
    image.length ≤ cfg.ramSize - cfg.imageMargin ∧ t = constructedCore cfg d image := by
  unfold State.construct
  split
  · next hfits => simp [hfits, constructedCore, eq_comm]
  · next hlong => simp [hlong]

theorem construct_of_long (h : ¬ image.length ≤ cfg.ramSize - cfg.imageMargin) :
    State.construct cfg d image = .error (.imageTooLarge image.length) := if_neg h

/-- The constraints of 00_scope.md R10 on the parameters. -/
theorem config_wf_iff (cfg : Config) : cfg.wf = true ↔
    0 < cfg.ramBase.toNat ∧ cfg.ramBase.toNat + cfg.ramSize ≤ 2 ^ 64 ∧ 1 ≤ cfg.ramSize ∧ 1 ≤ cfg.imageMargin ∧
      cfg.imageMargin ≤ cfg.ramSize := by
  simp only [Config.wf, Bool.and_eq_true, decide_eq_true_eq, and_assoc]

theorem draws_wf_iff (size : Nat) (d : Draws) :
    d.wf size = true ↔ CsrBank.wf d.csr = true ∧ Memory.wf size d.ram = true := by
  simp only [Draws.wf, Bool.and_eq_true]

theorem constructedCore_x0 : (constructedCore cfg d image).x[0] = 0#64 := by
  simp only [constructedCore, Vector.getElem_set_ne _ _ (show 2 ≠ 0 by decide), Vector.getElem_set_self]

theorem constructedCore_readX_zero : (constructedCore cfg d image).readX 0#5 = 0#64 := rfl

/-- x2 points past the last byte of RAM. -/
theorem constructedCore_readX_two :
    (constructedCore cfg d image).readX 2#5 = BitVec.ofNat 64 (cfg.ramBase.toNat + cfg.ramSize) := by
  rw [readX_of_ne_zero _ _ (by decide), BitVec.ofNat_add, ← eq_ofNat_of_toNat_eq rfl]
  exact Vector.getElem_set_self _

theorem constructedCore_readX_of_ne {r : RegIx} (h0 : r ≠ 0#5) (h2 : r ≠ 2#5) :
    (constructedCore cfg d image).readX r = d.gpr[r.toNat]'r.isLt := by
  have hne0 : 0 ≠ r.toNat := fun e => h0 (BitVec.eq_of_toNat_eq e.symm)
  have hne2 : 2 ≠ r.toNat := fun e => h2 (BitVec.eq_of_toNat_eq e.symm)
  rw [readX_of_ne_zero _ _ h0]
  simp only [constructedCore, Vector.getElem_set_ne _ _ hne2, Vector.getElem_set_ne _ _ hne0]

end Construct

/-! ### The statements -/

/-- Settles O56: an accepted image is shorter than RAM, so `writeCells` puts each of its bytes at its offset and leaves
the others. -/
theorem constructionLaysOutTheCore : Obligations.ConstructionLaysOutTheCore := by
  intro cfg d image t hcfg hd h
  obtain ⟨hfits, rfl⟩ := construct_eq_ok_iff.mp h
  obtain ⟨-, hram⟩ := (draws_wf_iff _ _).mp hd
  refine ⟨rfl, rfl, rfl, rfl, rfl, constructedCore_readX_zero, constructedCore_readX_two,
    fun r => constructedCore_readX_of_ne, fun a => rfl, fun k hk => ?image, fun k hk => ?beyond⟩
  case image =>
    have hbyte := getCell_writeCells_in d.ram 0 image k hk (by omega) hram
    rwa [Nat.zero_add] at hbyte
  case beyond => exact getCell_writeCells_out d.ram 0 image k (.inr (by omega))

/-- Settles O57: under legal parameters the margin is at most RAM_SIZE, so the bound can be read as a sum, and it is
at least 1, so an image as long as RAM exceeds the bound. -/
theorem constructionAcceptsExactlyFittingImages : Obligations.ConstructionAcceptsExactlyFittingImages := by
  intro cfg d image hcfg
  obtain ⟨-, -, -, hpos, hmargin⟩ := (config_wf_iff cfg).mp hcfg
  refine ⟨⟨?fits, ?accepted⟩, fun hlong => ?tooLarge, fun hlong => ?tooLarge'⟩
  case fits =>
    rintro ⟨t, h⟩
    obtain ⟨hfits, -⟩ := construct_eq_ok_iff.mp h
    omega
  case accepted => exact fun hfits => ⟨_, construct_eq_ok_iff.mpr ⟨by omega, rfl⟩⟩
  case tooLarge | tooLarge' => exact construct_of_long (by omega)

/-- Settles O23: the CSR bank is the draw, RAM the draw with a run of bytes written within it, and x0 the zero
written. -/
theorem constructionMeetsTheInvariant : Obligations.ConstructionMeetsTheInvariant := by
  intro cfg d image t hcfg hd h
  obtain ⟨hfits, rfl⟩ := construct_eq_ok_iff.mp h
  obtain ⟨hcsr, hram⟩ := (draws_wf_iff _ _).mp hd
  have hwithin : 0 + image.length ≤ cfg.ramSize := by omega
  exact ⟨(wf_iff _).mpr ⟨hcfg, Memory.wf_writeCells d.ram 0 image hwithin hram, hcsr, constructedCore_x0⟩, rfl⟩

/-- Settles O58, by evaluation: the empty image fits, and the zeros drawn are those of the reset state. -/
theorem resetIsAnEmptyDefaultConstruction : Obligations.ResetIsAnEmptyDefaultConstruction := by
  refine construct_eq_ok_iff.mpr ⟨by decide, ?_⟩
  decide

/-- Settles O22: the reset state is a construction, from draws that list nothing. -/
theorem resetMeetsTheInvariant : Obligations.ResetMeetsTheInvariant :=
  constructionMeetsTheInvariant Config.default Draws.zero [] State.reset (by decide) (by decide)
    resetIsAnEmptyDefaultConstruction

end Sys2Proof.Machine

/-! ## Reading back what was written (20_memory.md)

The value a run of bytes spells after it was taken from a value, the run read where it was written, the fetch among
the reads, and the three statements about them. -/

namespace Sys2Proof.Machine

/-! ### Bytes and the value they spell (R51, R52) -/

/-- A byte below a value: its low eight bits are the byte, the bits above those of the value. -/
theorem getLsbD_leValue_cons (b : Byte) (rest : List Byte) {i : Nat} (hi : i < 64) :
    (leValue (b :: rest)).getLsbD i = if i < 8 then b.getLsbD i else (leValue rest).getLsbD (i - 8) := by
  rw [leValue, BitVec.getLsbD_or, BitVec.getLsbD_setWidth, BitVec.getLsbD_shiftLeft]
  by_cases hbyte : i < 8
  · simp [hbyte, hi]
  · simp [hbyte, hi, BitVec.getLsbD_of_ge b i (by omega)]

theorem getLsbD_zextLow (n : Nat) (v : Word) {i : Nat} (hi : i < 64) :
    (zextLow n v).getLsbD i = (decide (i < n) && v.getLsbD i) := by
  simp [zextLow, hi]

/-- The low `n` bytes of a value spell its low `8 * n` bits. -/
theorem leValue_leBytes (n : Nat) (v : Word) : leValue (leBytes n v) = zextLow (8 * n) v := by
  apply BitVec.eq_of_getLsbD_eq
  induction n generalizing v with
  | zero => simp [leBytes, leValue, zextLow]
  | succ n ih =>
    intro i hi
    rw [leBytes, getLsbD_leValue_cons _ _ hi, getLsbD_zextLow _ _ hi]
    by_cases hbyte : i < 8
    · have hin : i < 8 * (n + 1) := by omega
      simp [hbyte, hin]
    · have hbit : 8 + (i - 8) = i := by omega
      have hin : i - 8 < 8 * n ↔ i < 8 * (n + 1) := by omega
      rw [if_neg hbyte, ih _ _ (by omega), getLsbD_zextLow _ _ (by omega), BitVec.getLsbD_ushiftRight, hbit,
        decide_eq_decide.mpr hin]

/-- The low bits of a value as a number. -/
theorem zextLow_eq_ofNat (n : Nat) (v : Word) : zextLow n v = BitVec.ofNat 64 (v.toNat % 2 ^ n) := by
  rw [← BitVec.toNat_setWidth, BitVec.ofNat_toNat]
  rfl

/-! ### A run read where it was written -/

/-- The first bytes of a run written within RAM are the low bytes of the value. -/
theorem readCells_writeCells {size : Nat} {m : Memory} {o n k : Nat} (v : Word) (hk : k ≤ n) (hend : o + n ≤ size)
    (hm : Memory.wf size m = true) : readCells (writeCells m o (leBytes n v)) o k = leBytes k v := by
  refine List.ext_getElem (by simp) fun j hread hbytes => ?_
  rw [readCells_length] at hread
  have hin : j < (leBytes n v).length := by rw [leBytes_length]; omega
  rw [readCells_getElem, getCell_writeCells_in m o _ j hin (by rwa [leBytes_length]) hm, leBytes_getElem,
    leBytes_getElem]

/-- A read of the low bytes of a value just written in RAM. -/
theorem memRead_of_written {s : State} {a : Word} {n k : Nat} (v : Word) (hs : s.wf = true)
    (hkbus : k = 1 ∨ k = 2 ∨ k = 4 ∨ k = 8) (hk : k ≤ n) (hram : InRam s a n) :
    (s.setMem (writeCells s.mem (offsetOf s a) (leBytes n v))).memRead a k =
      .ok (BitVec.ofNat 64 (v.toNat % 2 ^ (8 * k))) := by
  obtain ⟨hbase, hend⟩ := hram
  have hread : InRam (s.setMem (writeCells s.mem (offsetOf s a) (leBytes n v))) a k :=
    ⟨hbase, (Nat.add_le_add_left hk _).trans hend⟩
  have hrun : readCells (writeCells s.mem (offsetOf s a) (leBytes n v)) (offsetOf s a) k = leBytes k v :=
    readCells_writeCells v hk hend (memoryWf_of_wf hs)
  rw [memRead_of_inRam hkbus hread, ← zextLow_eq_ofNat, ← leValue_leBytes, ← hrun]
  rfl

/-- A fetch of a word just written at pc (R65; 70_reset_and_hazards.md R186). -/
theorem fetch_of_written {s : State} (v : Word) (hs : s.wf = true) (hram : InRam s s.pc 4) :
    (s.setMem (writeCells s.mem (offsetOf s s.pc) (leBytes 4 v))).fetch = .ok (v.setWidth 32) := by
  rw [State.fetch, setMem_pc, memRead_of_written v hs (by decide) (Nat.le_refl 4) hram, ← zextLow_eq_ofNat]
  simp [zextLow]

/-- A byte of RAM read through the Bus (R51). -/
theorem memRead_one {s : State} {a : Word} (hram : InRam s a 1) :
    s.memRead a 1 = .ok ((s.ramByte (offsetOf s a)).setWidth 64) := by
  rw [memRead_of_inRam (by decide) hram]
  simp [readCells, leValue, State.ramByte]

/-- Within an access in RAM addresses do not wrap, since under legal parameters RAM ends at 2^64 or below. -/
theorem byte_inRam {s : State} {a : Word} {n k : Nat} (hs : s.wf = true) (hk : k < n) (hram : InRam s a n) :
    InRam s (a + BitVec.ofNat 64 k) 1 ∧ offsetOf s (a + BitVec.ofNat 64 k) = offsetOf s a + k := by
  obtain ⟨hcfg, -⟩ := (wf_iff s).mp hs
  obtain ⟨-, htop, -⟩ := (config_wf_iff s.cfg).mp hcfg
  obtain ⟨hbase, hend⟩ := hram
  have haddr : (a + BitVec.ofNat 64 k).toNat = a.toNat + k := by
    rw [BitVec.toNat_add, BitVec.toNat_ofNat]
    omega
  simp only [InRam, offsetOf, haddr]
  omega

/-! ### The statements -/

/-- Settles O18: an access of a size the Bus accepts is translated or faults by `InRam`; any other size is refused
before that. -/
theorem busTranslatesOrFaults : Obligations.BusTranslatesOrFaults := by
  intro s a v
  refine ⟨fun n hn => ⟨fun hout => ?outside, fun hram => ?inside⟩, fun size h8 h16 h32 h64 => ?badSize⟩
  case outside => exact ⟨memRead_of_not_inRam hn hout, memWrite_of_not_inRam v hn hout⟩
  case inside => exact ⟨⟨_, memRead_of_inRam hn hram⟩, _, memWrite_of_inRam v hn hram⟩
  case badSize =>
    have hbad : busSizeOk size = false := by simp [busSizeOk, h8, h16, h32, h64]
    simp [State.busLoad, State.busStore, hbad]

/-- Settles O21: the run written spells the value's low bits, its first four bytes the low word, and the byte at each
of its offsets is that byte of the value. -/
theorem storedBytesReadBack : Obligations.StoredBytesReadBack := by
  intro s a n v hs hn hram
  refine ⟨_, memWrite_of_inRam v hn hram, ?whole, fun k hk => ?byte, ?lowWord⟩
  case whole => exact memRead_of_written v hs hn (Nat.le_refl n) hram
  case lowWord =>
    rintro rfl
    exact memRead_of_written v hs (by decide) (by decide) hram
  case byte =>
    obtain ⟨hbytes, -⟩ := ramBecomes_writeCells v hram.2 (memoryWf_of_wf hs)
    obtain ⟨hbyte, hoffset⟩ := byte_inRam hs hk hram
    have hread := memRead_one (s := s.setMem (writeCells s.mem (offsetOf s a) (leBytes n v))) hbyte
    rw [hread, ← hbytes k hk]
    exact congrArg (fun o => Except.ok ((State.ramByte _ o).setWidth 64)) hoffset

end Sys2Proof.Machine

/-! ## What an instruction does to which part of the state (10_state.md R25, R28, R40; 20_memory.md R55)

The outcomes of `exec` as in `ExecCase`, each with what the instruction names for it: its destination, its access, its
part in the control flow. The frame, the fault's cause and the next mode are read off them. -/

namespace Sys2Proof.Machine

/-- The instruction can leave pc elsewhere than behind itself: the branches, the jumps and the returns from a trap
(10_state.md R28). -/
def transfersControl : Instr → Bool
  | .beq _ _ _ | .bne _ _ _ | .blt _ _ _ | .bge _ _ _ | .bltu _ _ _ | .bgeu _ _ _ => true
  | .jalr _ _ _ | .jal _ _ | .sret | .mret => true
  | _ => false

/-- The outcomes the instruction `i` can have, by what it names. -/
inductive ExecEffect (i : Instr) (s : State) : Host.Outcome State Fault Refusal → Prop
  /-- It writes its destination. -/
  | register (rd : RegIx) (v : Word) (hdest : destOf i = some rd) : ExecEffect i s (.next (s.writeX rd v))
  /-- It stores at its address. -/
  | memory (a : Word) (n : Nat) (v : Word) (t : State) (hn : n = 1 ∨ n = 2 ∨ n = 4 ∨ n = 8)
      (hstores : writesRam i = true) (hacc : accessOf s i = some (a, n)) (hw : s.memWrite a n v = .ok t) :
      ExecEffect i s (.next t)
  /-- It stores at its address and writes its destination. -/
  | memoryAndRegister (a : Word) (n : Nat) (v : Word) (t : State) (rd : RegIx) (u : Word)
      (hn : n = 1 ∨ n = 2 ∨ n = 4 ∨ n = 8) (hstores : writesRam i = true) (hacc : accessOf s i = some (a, n))
      (hw : s.memWrite a n v = .ok t) (hdest : destOf i = some rd) : ExecEffect i s (.next (t.writeX rd u))
  /-- It transfers control. -/
  | jump (target : Word) (hjumps : transfersControl i = true) : ExecEffect i s (.next (s.setPc target))
  /-- It transfers control and writes its destination. -/
  | link (rd : RegIx) (v target : Word) (hjumps : transfersControl i = true) (hdest : destOf i = some rd) :
      ExecEffect i s (.next ((s.writeX rd v).setPc target))
  /-- It writes a CSR and its destination. -/
  | csr (a : CsrAddr) (v : Word) (rd : RegIx) (u : Word) (hcsr : writesCsr i = true) (hdest : destOf i = some rd) :
      ExecEffect i s (.next ((s.csrWrite a v).writeX rd u))
  /-- It returns from a trap. -/
  | trapReturn (target : Word) (m : Mode) (a : CsrAddr) (v : Word) (hreturns : i = .sret ∨ i = .mret) :
      ExecEffect i s (.next (s.trapReturn target m a v))
  /-- It changes nothing. -/
  | nothing : ExecEffect i s (.next s)
  /-- Its access does not lie in RAM. -/
  | accessFault (a : Word) (n : Nat) (hacc : accessOf s i = some (a, n)) (hout : ¬ InRam s a n) :
      ExecEffect i s (.fault (.raised (accessFault s a n) (s.setStatus (.faulted (accessFault s a n)))))
  /-- It is `mret` with the reserved MPP. -/
  | reservedMPP (hmret : i = .mret) (hswitch : s.cfg.mpp2Behaviour = .fault)
      (hmpp : (s.csrRead 0x300#12).extractLsb' 11 2 = 2#2) :
      ExecEffect i s (.fault (.raised (.reservedMPP (s.csrRead 0x300#12))
        (s.setStatus (.faulted (.reservedMPP (s.csrRead 0x300#12))))))

section Families

variable {i : Instr} {s : State} {n : Nat} {rd rs2 rs1 : RegIx} {imm : BitVec 12}

theorem load_effect {extend : Word → Word} (hn : n = 1 ∨ n = 2 ∨ n = 4 ∨ n = 8)
    (hexec : exec i s = s.load n extend rd rs1 imm) (hdest : destOf i = some rd)
    (hacc : accessOf s i = some (s.loadAddr rs1 imm, n)) : ExecEffect i s (exec i s) := by
  by_cases hram : InRam s (s.loadAddr rs1 imm) n
  · rw [hexec, State.load, memRead_eq_ramNat hn hram]
    exact .register rd _ hdest
  · rw [load_faultsFrom hn hexec hram]
    exact .accessFault _ n hacc hram

theorem store_effect (hn : n = 1 ∨ n = 2 ∨ n = 4 ∨ n = 8) (hexec : exec i s = s.store n rs2 rs1 imm)
    (hstores : writesRam i = true) (hacc : accessOf s i = some (s.storeAddr rs1 imm, n)) :
    ExecEffect i s (exec i s) := by
  by_cases hram : InRam s (s.storeAddr rs1 imm) n
  · have hw := memWrite_of_inRam (s.readX rs2) hn hram
    rw [hexec, State.store, hw]
    exact .memory _ n _ _ hn hstores hacc hw
  · rw [store_faultsFrom hn hexec hram]
    exact .accessFault _ n hacc hram

theorem amo_effect {combine : Word → Word → Word} {extend : Word → Word} (hn : n = 1 ∨ n = 2 ∨ n = 4 ∨ n = 8)
    (hexec : exec i s = s.amo n combine extend rd rs2 rs1) (hdest : destOf i = some rd)
    (hstores : writesRam i = true) (hacc : accessOf s i = some (s.amoAddr rs1, n)) : ExecEffect i s (exec i s) := by
  by_cases hram : InRam s (s.amoAddr rs1) n
  · rcases amo_cases s n combine extend rd rs2 rs1 hn with ⟨r, hread, -⟩ | ⟨old, t, -, hw, hnext⟩
    · rw [memRead_of_inRam hn hram] at hread
      cases hread
    · rw [hexec, hnext]
      exact .memoryAndRegister _ n _ t rd _ hn hstores hacc hw hdest
  · rw [amo_faultsFrom hn hexec hram]
    exact .accessFault _ n hacc hram

theorem branch_effect {taken : Bool} {offset : BitVec 13} (hexec : exec i s = s.branch taken offset)
    (hjumps : transfersControl i = true) : ExecEffect i s (exec i s) := by
  rw [hexec]
  cases taken
  case false => exact .nothing
  case true => exact .jump _ hjumps

theorem csrRegister_effect {new : Word → Word → Word} {a : CsrAddr} (hexec : exec i s = s.csrRegister new rd a rs1)
    (hcsr : writesCsr i = true) (hdest : destOf i = some rd) : ExecEffect i s (exec i s) := by
  rw [hexec, csrRegister_cases]
  exact .csr _ _ rd _ hcsr hdest

/-- `mret` faults on the reserved MPP, and otherwise returns to the mode `nextMode` says. -/
theorem exec_mret_cases (s : State) :
    (s.cfg.mpp2Behaviour = .fault ∧ (s.csrRead 0x300#12).extractLsb' 11 2 = 2#2 ∧
      exec .mret s = s.raise (.reservedMPP (s.csrRead 0x300#12))) ∨
    exec .mret s = .next (s.trapReturn (s.csrRead 0x341#12) (nextMode s .mret) 0x300#12
      (mretStatus (s.csrRead 0x300#12))) := by
  by_cases hreserved : s.cfg.mpp2Behaviour = .fault ∧ (s.csrRead 0x300#12).extractLsb' 11 2 = 2#2
  · exact .inl ⟨hreserved.1, hreserved.2, execMret_of_reserved ((mretMode_eq_none _ _).mpr hreserved)⟩
  · exact .inr (execMret_of_mode (mretMode_eq_nextMode ((not_and_or.mp hreserved).symm)))

theorem mret_effect (s : State) : ExecEffect .mret s (exec .mret s) := by
  rcases exec_mret_cases s with ⟨hswitch, hmpp, h⟩ | h <;> rw [h]
  · exact .reservedMPP rfl hswitch hmpp
  · exact .trapReturn _ _ _ _ (.inr rfl)

end Families

/-- Everything an instruction can do, by what it names. -/
theorem exec_effect (i : Instr) (s : State) : ExecEffect i s (exec i s) := by
  cases i
  case lb | lh | lw | ld | lbu | lhu | lwu => exact load_effect (by decide) rfl rfl rfl
  case addi | slti | sltiu | xori | ori | andi | slli | srli | srai | addiw | slliw | srliw | sraiw | auipc | lui
      | add | sub | mul | sll | slt | sltu | xor | srl | sra | or | and | addw | subw | mulw | sllw | srlw | sraw =>
    exact .register _ _ rfl
  case sb | sh | sw | sd => exact store_effect (by decide) rfl rfl rfl
  case amoaddW | amoswapW | amoaddD | amoswapD => exact amo_effect (by decide) rfl rfl rfl rfl
  case beq | bne | blt | bge | bltu | bgeu => exact branch_effect rfl rfl
  case jalr | jal => exact .link _ _ _ rfl rfl
  case csrrw | csrrs | csrrc => exact csrRegister_effect rfl rfl rfl
  case csrrwi | csrrsi | csrrci => exact .csr _ _ _ _ rfl rfl
  case sret => exact .trapReturn _ _ _ _ (.inl rfl)
  case mret => exact mret_effect s
  case sfenceVma => exact .nothing

/-! ### What each update leaves alone -/

theorem readX_writeX_of_ne (s : State) {r rd : RegIx} (v : Word) (h : r ≠ rd) :
    (s.writeX rd v).readX r = s.readX r := by
  obtain ⟨⟨-, hother⟩, -⟩ := writesOnly_writeX s rd v
  exact hother r h

/-- A Bus write changes no byte outside its run and nothing but Memory. -/
theorem memWrite_frame {s t : State} {a : Word} {n : Nat} {v : Word} (hn : n = 1 ∨ n = 2 ∨ n = 4 ∨ n = 8)
    (hw : s.memWrite a n v = .ok t) :
    (∀ p, (p < offsetOf s a ∨ offsetOf s a + n ≤ p) → t.ramByte p = s.ramByte p) ∧ ∃ m, t = s.setMem m := by
  obtain ⟨-, -, rfl⟩ := memWrite_eq_ok s t a n v hn hw
  refine ⟨fun p hp => getCell_writeCells_out _ _ _ p ?_, _, rfl⟩
  rwa [leBytes_length]

theorem readX_trapReturn (s : State) (target : Word) (m : Mode) (a : CsrAddr) (v : Word) (r : RegIx) :
    (s.trapReturn target m a v).readX r = s.readX r := by simp [State.trapReturn]

theorem ramByte_trapReturn (s : State) (target : Word) (m : Mode) (a : CsrAddr) (v : Word) (o : Nat) :
    (s.trapReturn target m a v).ramByte o = s.ramByte o := by simp [State.trapReturn]

/-! ### The statements -/

/-- Settles O29: an update that is no write to a part leaves that part alone, and where the instruction makes such a
write it names it. -/
theorem everyInstructionKeepsItsFrame : Obligations.EveryInstructionKeepsItsFrame := by
  intro i s t h
  have heffect := exec_effect i s
  rw [h] at heffect
  have hne {r rd : RegIx} (hdest : destOf i = some rd) (hr : destOf i ≠ some r) : r ≠ rd := fun e => hr (e ▸ hdest)
  cases heffect with
  | register rd v hdest =>
    exact ⟨fun r hr => readX_writeX_of_ne s v (hne hdest hr), fun _ _ => by simp, fun _ _ => by simp,
      fun _ _ _ _ _ => by simp, by simp [SameHidden]⟩
  | memory a n v t hn hstores hacc hw =>
    obtain ⟨hout, m, rfl⟩ := memWrite_frame hn hw
    refine ⟨fun _ _ => by simp, fun _ _ => by simp, fun hno => absurd (hno ▸ hstores) (by decide),
      fun b k hb => ?_, by simp [SameHidden]⟩
    cases hacc.symm.trans hb
    exact hout
  | memoryAndRegister a n v t rd u hn hstores hacc hw hdest =>
    obtain ⟨hout, m, rfl⟩ := memWrite_frame hn hw
    refine ⟨fun r hr => by simp [readX_writeX_of_ne _ u (hne hdest hr)], fun _ _ => by simp,
      fun hno => absurd (hno ▸ hstores) (by decide), fun b k hb => ?_, by simp [SameHidden]⟩
    cases hacc.symm.trans hb
    simpa using hout
  | jump target =>
    exact ⟨fun _ _ => by simp, fun _ _ => by simp, fun _ _ => by simp, fun _ _ _ _ _ => by simp,
      by simp [SameHidden]⟩
  | link rd v target _ hdest =>
    exact ⟨fun r hr => by simp [readX_writeX_of_ne _ v (hne hdest hr)], fun _ _ => by simp, fun _ _ => by simp,
      fun _ _ _ _ _ => by simp, by simp [SameHidden]⟩
  | csr a v rd u hcsr hdest =>
    exact ⟨fun r hr => by simp [readX_writeX_of_ne _ u (hne hdest hr)], fun hno => absurd (hno ▸ hcsr) (by decide),
      fun _ _ => by simp, fun _ _ _ _ _ => by simp, by simp [SameHidden]⟩
  | trapReturn target m a v hreturns =>
    refine ⟨fun _ _ => readX_trapReturn .., fun hno => ?_, fun _ _ => ramByte_trapReturn ..,
      fun _ _ _ _ _ => ramByte_trapReturn .., by simp [SameHidden]⟩
    rcases hreturns with rfl | rfl <;> cases hno
  | nothing => exact ⟨fun _ _ => rfl, fun _ _ => rfl, fun _ _ => rfl, fun _ _ _ _ _ => rfl, rfl, rfl, rfl⟩

/-! ### The next mode (60_exceptions.md R175) -/

section Mode

variable {i : Instr} {s t : State}

theorem nextMode_of_not_return (hsret : i ≠ .sret) (hmret : i ≠ .mret) : nextMode s i = s.mode := by
  unfold nextMode
  split
  · exact absurd rfl hsret
  · exact absurd rfl hmret
  · rfl

/-- An instruction that is no return from a trap leaves the mode. -/
theorem exec_mode_of_not_return (hsret : i ≠ .sret) (hmret : i ≠ .mret) (h : exec i s = .next t) :
    t.mode = s.mode := by
  have heffect := exec_effect i s
  rw [h] at heffect
  cases heffect with
  | trapReturn target m a v hreturns => exact absurd hreturns (not_or.mpr ⟨hsret, hmret⟩)
  | memory a n v t hn _ _ hw | memoryAndRegister a n v t rd u hn _ _ hw _ =>
    obtain ⟨-, m, rfl⟩ := memWrite_frame hn hw
    simp
  | _ => simp

/-- `sret` is one return from a trap. -/
theorem exec_sret (s : State) : exec .sret s = .next (s.trapReturn (s.csrRead 0x141#12) (nextMode s .sret) 0x100#12
    (sretStatus (s.csrRead 0x100#12))) := rfl

/-- Where `mret` completes it is one return from a trap. -/
theorem exec_mret_eq_next (h : exec .mret s = .next t) :
    t = s.trapReturn (s.csrRead 0x341#12) (nextMode s .mret) 0x300#12 (mretStatus (s.csrRead 0x300#12)) := by
  rcases exec_mret_cases s with ⟨-, -, hfault⟩ | hnext
  · cases hfault.symm.trans h
  · exact (Host.Outcome.next.inj (hnext.symm.trans h)).symm

/-- Settles O26: a constructed core is in Machine mode, `sret` and `mret` are returns to the mode `nextMode` says, no
other instruction writes the mode, and `mretRestoresFromMstatus` has the reserved MPP. -/
theorem modeFollowsOnlyTrapReturns : Obligations.ModeFollowsOnlyTrapReturns := by
  refine ⟨fun cfg d image t h => ?constructed, fun i s t h => ?completed, fun s hswitch hmpp => ?reserved⟩
  case constructed =>
    obtain ⟨-, rfl⟩ := construct_eq_ok_iff.mp h
    rfl
  case completed =>
    by_cases hsret : i = .sret
    · subst hsret
      cases (exec_sret s).symm.trans h
      exact trapReturn_mode ..
    · by_cases hmret : i = .mret
      · subst hmret
        rw [exec_mret_eq_next h]
        exact trapReturn_mode ..
      · rw [nextMode_of_not_return hsret hmret, exec_mode_of_not_return hsret hmret h]
  case reserved => exact execMret_of_reserved ((mretMode_eq_none _ _).mpr ⟨hswitch, hmpp⟩)

end Mode

/-! ### The next pc (10_state.md R28) -/

section NextPc

variable {i : Instr} {s t : State}

theorem nextPc_of_not_transfer (hi : transfersControl i = false) : nextPc s i = s.pc + 4#64 := by
  cases i
  case beq | bne | blt | bge | bltu | bgeu | jalr | jal | sret | mret => cases hi
  all_goals rfl

/-- An instruction that does not transfer control leaves pc where the pre-advance put it. -/
theorem exec_pc_of_not_transfer (hi : transfersControl i = false) (h : exec i s = .next t) : t.pc = s.pc := by
  have heffect := exec_effect i s
  rw [h] at heffect
  cases heffect with
  | jump _ hjumps | link _ _ _ hjumps _ => exact absurd (hi ▸ hjumps) (by decide)
  | trapReturn _ _ _ _ hreturns => rcases hreturns with rfl | rfl <;> cases hi
  | memory a n v t hn _ _ hw | memoryAndRegister a n v t rd u hn _ _ hw _ =>
    obtain ⟨-, m, rfl⟩ := memWrite_frame hn hw
    simp
  | _ => simp

theorem branch_pc {taken : Bool} {imm : BitVec 13} {c : Prop} [Decidable c] (hc : taken = true ↔ c)
    (h : s.preAdvance.branch taken imm = .next t) :
    t.pc = if c then s.pc + wordOfInt imm.toInt else s.pc + 4#64 := by
  cases (branch_eq_setPc s.preAdvance imm hc).symm.trans h
  simp only [setPc_pc, preAdvance_pc, BitVec.add_sub_cancel]

/-- After the pre-advance every instruction leaves pc at `nextPc` of the state before it. -/
theorem exec_preAdvance_pc (h : exec i s.preAdvance = .next t) : t.pc = nextPc s i := by
  cases hi : transfersControl i with
  | false => rw [nextPc_of_not_transfer hi, exec_pc_of_not_transfer hi h, preAdvance_pc]
  | true =>
    cases i
    case beq => exact branch_pc (eqWords_iff _ _) h
    case bne => exact branch_pc (not_eqWords_iff _ _) h
    case blt => exact branch_pc (ltSigned_iff _ _) h
    case bge => exact branch_pc (not_ltSigned_iff _ _) h
    case bltu => exact branch_pc (ltUnsigned_iff _ _) h
    case bgeu => exact branch_pc (not_ltUnsigned_iff _ _) h
    case jal rd imm =>
      obtain ⟨u, hu, hpc, -⟩ := jalLinksAndJumps.2 rd imm s.preAdvance
      cases hu.symm.trans h
      simpa using hpc
    case jalr rd rs1 imm =>
      obtain ⟨u, hu, hpc, -⟩ := jalrLinksAndJumps.2 rd rs1 imm s.preAdvance
      cases hu.symm.trans h
      rw [← add_imm12, imm12_eq_wordOfInt] at hpc
      simpa using hpc
    case sret =>
      cases (exec_sret s.preAdvance).symm.trans h
      simp
    case mret =>
      rw [exec_mret_eq_next h]
      simp
    all_goals cases hi

end NextPc

end Sys2Proof.Machine

/-! ## The step, the run and the trace (60_exceptions.md)

The fetch by `InRam`, a step from each of its four starting points, what a step that completes and one that faults
leave, and the statements that follow from them. -/

namespace Sys2Proof.Machine

/-! ### The fetch (20_memory.md R54) -/

section Fetch

variable {s : State} {w : InstWord} {r : FaultReason}

theorem fetch_of_not_inRam (h : ¬ InRam s s.pc 4) : s.fetch = .error (accessFault s s.pc 4) := by
  rw [State.fetch, memRead_of_not_inRam (by decide) h]

theorem fetch_eq_ok_iff : s.fetch = .ok w ↔ InRam s s.pc 4 ∧ w = wordAtPc s := by
  by_cases hram : InRam s s.pc 4
  · simp [fetch_of_inRam hram, hram, eq_comm]
  · simp [fetch_of_not_inRam hram, hram]

theorem fetch_eq_error_iff : s.fetch = .error r ↔ ¬ InRam s s.pc 4 ∧ r = accessFault s s.pc 4 := by
  by_cases hram : InRam s s.pc 4
  · simp [fetch_of_inRam hram, hram]
  · simp [fetch_of_not_inRam hram, hram, eq_comm]

end Fetch

/-! ### The step by its starting point (R159, R163) -/

section StepOf

variable {s : State} {w : InstWord} {i : Instr}

theorem step_of_not_running (h : s.status ≠ .running) : step s = .fault (.notRunning s) := by
  unfold step
  split
  · exact absurd ‹_› h
  · rfl
  · rfl

theorem step_of_fetch_error {r : FaultReason} (hs : s.status = .running) (hf : s.fetch = .error r) :
    step s = s.raise r := by
  simp only [step, hs, State.stepRunning, hf]

theorem step_of_decode_ok (hs : s.status = .running) (hf : s.fetch = .ok w)
    (hd : decodeWord s.cfg.hasMulw w = .ok i) : step s = haltCheck (exec i s.preAdvance) := by
  simp only [step, hs, State.stepRunning, hf, State.executeWord, hd]

end StepOf

/-- Settles O12: the status decides before anything else. -/
theorem noStepFromATerminalState : Obligations.NoStepFromATerminalState := fun _ => step_of_not_running

/-- Settles O9: the fetch's read faults by the side of RAM it lies on, and nothing has changed yet. -/
theorem fetchFaultLeavesEverything : Obligations.FetchFaultLeavesEverything := fun _ hs hout =>
  step_of_fetch_error hs (fetch_of_not_inRam hout)

/-- Settles O7: the fetch answers the word at pc, and the halt check is the match written out. -/
theorem stepRunsDecodedInstruction : Obligations.StepRunsDecodedInstruction := fun _ _ hs hram hd =>
  step_of_decode_ok hs (fetch_of_inRam hram) hd

/-! ### What an instruction's outcome carries -/

section Outcome

variable {i : Instr} {s t : State} {f : Fault}

/-- The state an instruction's fault leaves is the one it ran on, its status the fault (R164). -/
theorem exec_eq_fault (h : exec i s = .fault f) :
    ∃ r, f = .raised r (s.setStatus (.faulted r)) ∧
      ((∃ a n, accessOf s i = some (a, n) ∧ ¬ InRam s a n ∧ r = accessFault s a n) ∨
        (i = .mret ∧ s.cfg.mpp2Behaviour = .fault ∧ (s.csrRead 0x300#12).extractLsb' 11 2 = 2#2 ∧
          r = .reservedMPP (s.csrRead 0x300#12))) := by
  have heffect := exec_effect i s
  rw [h] at heffect
  cases heffect with
  | accessFault a n hacc hout => exact ⟨_, rfl, .inl ⟨a, n, hacc, hout, rfl⟩⟩
  | reservedMPP hmret hswitch hmpp => exact ⟨_, rfl, .inr ⟨hmret, hswitch, hmpp, rfl⟩⟩

theorem exec_ne_refused (i : Instr) (s : State) (why : Refusal) : exec i s ≠ .refused why := by
  intro h
  have heffect := exec_effect i s
  rw [h] at heffect
  cases heffect

/-- An instruction that completes keeps what no instruction writes. -/
theorem exec_sameHidden (h : exec i s = .next t) : SameHidden s t := by
  obtain ⟨-, -, -, -, hhidden⟩ := everyInstructionKeepsItsFrame i s t h
  exact hhidden

/-- An instruction that completes keeps the invariant. -/
theorem exec_wf (hs : s.wf = true) (h : exec i s = .next t) : t.wf = true := by
  have heffect := exec_effect i s
  rw [h] at heffect
  cases heffect with
  | register rd v | link rd v => exact wf_writeX s rd v hs
  | memory a n v t hn _ _ hw => exact wf_memWrite s t a n v hn hw hs
  | memoryAndRegister a n v t rd u hn _ _ hw => exact wf_writeX t rd u (wf_memWrite s t a n v hn hw hs)
  | jump | nothing => exact hs
  | csr a v rd u => exact wf_writeX _ rd u (wf_csrWrite s a v hs)
  | trapReturn target m a v => exact wf_csrWrite _ a v hs

end Outcome

/-- No address depends on pc. -/
theorem accessOf_preAdvance (s : State) (i : Instr) : accessOf s.preAdvance i = accessOf s i := by
  cases i <;> rfl

/-! ### What a step leaves -/

section StepLeaves

variable {s t left : State} {r : FaultReason}

/-- A step that completes has executed the instruction at pc, and halted where that left pc zero (R161). -/
theorem step_eq_next (h : step s = .next t) :
    s.status = .running ∧ ∃ i u, InRam s s.pc 4 ∧ decodeWord s.cfg.hasMulw (wordAtPc s) = .ok i ∧
      exec i s.preAdvance = .next u ∧ t = if u.pc = 0#64 then u.setStatus .halted else u := by
  have hcase := step_cases s
  generalize ho : step s = o at hcase
  rw [h] at ho
  cases hcase with
  | stuck | fetchFault | decodeFault => cases ho
  | executed w i hs hf hd =>
    obtain ⟨hram, rfl⟩ := fetch_eq_ok_iff.mp hf
    obtain ⟨u, hexec, ht⟩ := (haltCheck_eq_next _ t).mp ho.symm
    exact ⟨hs, i, u, hram, hd, hexec, ht⟩

/-- A step that completes leaves the core Halted where pc is zero, and otherwise Running. -/
theorem step_next_status (h : step s = .next t) :
    t.pc = 0#64 ∧ t.status = .halted ∨ t.pc ≠ 0#64 ∧ t.status = .running := by
  obtain ⟨hs, i, u, -, -, hexec, rfl⟩ := step_eq_next h
  obtain ⟨-, hstatus, -⟩ := exec_sameHidden hexec
  by_cases hpc : u.pc = 0#64
  · exact .inl (by simp [hpc])
  · exact .inr (by simp [hpc, hstatus, hs])

/-- A step that faults was taken by a Running core and raised its fault at the fetch, from the state before the
pre-advance, or at decode or execution, from the state after it (R164). -/
theorem step_eq_raised (h : step s = .fault (.raised r left)) :
    s.status = .running ∧
      ((¬ InRam s s.pc 4 ∧ r = accessFault s s.pc 4 ∧ left = s.setStatus (.faulted r)) ∨
        (InRam s s.pc 4 ∧ left = s.preAdvance.setStatus (.faulted r) ∧
          (((∃ e, decodeWord s.cfg.hasMulw (wordAtPc s) = .error e) ∧ r = decodeFaultOf (wordAtPc s)) ∨
            ∃ i, decodeWord s.cfg.hasMulw (wordAtPc s) = .ok i ∧
              exec i s.preAdvance = .fault (.raised r left)))) := by
  have hcase := step_cases s
  generalize ho : step s = o at hcase
  rw [h] at ho
  cases hcase with
  | stuck => cases ho
  | fetchFault r' hs hf =>
    cases ho
    obtain ⟨hout, hr⟩ := fetch_eq_error_iff.mp hf
    exact ⟨hs, .inl ⟨hout, hr, rfl⟩⟩
  | decodeFault w e hs hf hd =>
    cases ho
    obtain ⟨hram, rfl⟩ := fetch_eq_ok_iff.mp hf
    exact ⟨hs, .inr ⟨hram, rfl, .inl ⟨⟨e, hd⟩, rfl⟩⟩⟩
  | executed w i hs hf hd =>
    obtain ⟨hram, rfl⟩ := fetch_eq_ok_iff.mp hf
    have hexec := (haltCheck_eq_fault _ _).mp ho.symm
    obtain ⟨r', hf', -⟩ := exec_eq_fault hexec
    cases hf'
    exact ⟨hs, .inr ⟨hram, rfl, .inr ⟨i, hd, hexec⟩⟩⟩

theorem step_ne_refused (s : State) (why : Refusal) : step s ≠ .refused why := by
  intro h
  have hcase := step_cases s
  generalize ho : step s = o at hcase
  rw [h] at ho
  cases hcase with
  | stuck | fetchFault | decodeFault => cases ho
  | executed w i =>
    cases hexec : exec i s.preAdvance with
    | refused why' => exact exec_ne_refused i s.preAdvance why' hexec
    | next u | fault f => rw [hexec] at ho; cases ho

/-- Only a core that is not Running has no transition. -/
theorem step_eq_notRunning (h : step s = .fault (.notRunning left)) : s.status ≠ .running := by
  have hcase := step_cases s
  generalize ho : step s = o at hcase
  rw [h] at ho
  cases hcase with
  | stuck hs => exact hs
  | fetchFault | decodeFault => cases ho
  | executed w i =>
    obtain ⟨r, hf, -⟩ := exec_eq_fault ((haltCheck_eq_fault _ _).mp ho.symm)
    cases hf

end StepLeaves

/-! ### The statements about one step -/

/-- Settles O13: the two states `step_eq_raised` names, written out. -/
theorem faultsLeaveOnlyThePcAdvance : Obligations.FaultsLeaveOnlyThePcAdvance := by
  intro s r left h
  obtain ⟨hs, ⟨hout, -, hleft⟩ | ⟨hram, hleft, -⟩⟩ := step_eq_raised h
  · exact ⟨hs, .inl ⟨hout, hleft⟩⟩
  · exact ⟨hs, .inr ⟨hram, hleft⟩⟩

/-- Settles O14: a fetch faults by its access, a rejected word is a decode fault, and an instruction faults by its
access or is `mret` with the reserved MPP (`exec_eq_fault`); the pre-advance changes no address. -/
theorem stepFaultsAreTheNamedOnes : Obligations.StepFaultsAreTheNamedOnes := by
  refine fun s => ⟨step_ne_refused s, fun r left h => ?_⟩
  obtain ⟨-, ⟨hout, hr, -⟩ | ⟨-, -, ⟨hreject, hr⟩ | ⟨i, hd, hexec⟩⟩⟩ := step_eq_raised h
  · exact .inr (.inl ⟨s.pc, 4, .inl ⟨rfl, rfl⟩, hout, hr⟩)
  · exact .inl ⟨hreject, hr⟩
  · obtain ⟨r', hf, hcause⟩ := exec_eq_fault hexec
    cases hf
    rcases hcause with ⟨a, n, hacc, hout, hr⟩ | ⟨rfl, hswitch, hmpp, hr⟩
    · exact .inr (.inl ⟨a, n, .inr ⟨i, hd, accessOf_preAdvance s i ▸ hacc⟩, hout, hr⟩)
    · exact .inr (.inr ⟨hd, hswitch, hmpp, hr⟩)

/-- Settles O11: an instruction leaves a Running core Running, so only the halt check sets Halted, where pc is zero
(`step_next_status`); a fault sets Faulted. -/
theorem haltExactlyAtPcZero : Obligations.HaltExactlyAtPcZero := by
  refine fun s hs => ⟨fun t h => ?next, fun r left h => ?raised⟩
  case next =>
    obtain ⟨-, i, u, hram, hd, hexec, ht⟩ := step_eq_next h
    refine ⟨?_, i, u, hram, hd, hexec, ht⟩
    rcases step_next_status h with ⟨hpc, hstatus⟩ | ⟨hpc, hstatus⟩ <;> simp [hpc, hstatus]
  case raised =>
    obtain ⟨-, ⟨-, -, rfl⟩ | ⟨-, rfl, -⟩⟩ := step_eq_raised h <;> simp

/-- Settles O24: every update an instruction makes keeps the invariant (`exec_wf`), and it reads neither pc, which the
pre-advance changes, nor the status, which the halt check and a fault change. -/
theorem stepKeepsTheInvariant : Obligations.StepKeepsTheInvariant := by
  refine fun s hs => ⟨fun t h => ?next, fun r left h => ?raised⟩
  case next =>
    obtain ⟨-, i, u, -, -, hexec, rfl⟩ := step_eq_next h
    have hu : u.wf = true := exec_wf (s := s.preAdvance) hs hexec
    split
    · exact hu
    · exact hu
  case raised =>
    obtain ⟨-, ⟨-, -, rfl⟩ | ⟨-, rfl, -⟩⟩ := step_eq_raised h <;> exact hs

/-- Settles O25: no instruction writes them, and the halt check writes the status alone. -/
theorem stepKeepsParametersAndFpRegisters : Obligations.StepKeepsParametersAndFpRegisters := by
  intro s t h
  obtain ⟨-, i, u, -, -, hexec, rfl⟩ := step_eq_next h
  obtain ⟨hf, -, hcfg⟩ := exec_sameHidden hexec
  split <;> exact ⟨hf, hcfg⟩

/-- Settles O30: the step executes the decoded instruction, whose pc is `exec_preAdvance_pc`; the halt check leaves
pc. -/
theorem pcAfterNormalExecution : Obligations.PcAfterNormalExecution := by
  intro s t i hs hram hd h
  obtain ⟨-, i', u, -, hd', hexec, rfl⟩ := step_eq_next h
  cases hd.symm.trans hd'
  rw [← exec_preAdvance_pc hexec]
  split <;> rfl

/-! ### The trace (R180) -/

section Trace

variable {s : State}

theorem traceOf_of_decode_ok {i : Instr} (hs : s.status = .running) (hram : InRam s s.pc 4)
    (hd : decodeWord s.cfg.hasMulw (wordAtPc s) = .ok i) :
    s.traceOf = some { pc := s.pc, raw := wordAtPc s, mnemonic := mnemonicOf i } := by
  simp only [State.traceOf, hs, fetch_of_inRam hram, hd]

theorem traceOf_of_not_running (hs : s.status ≠ .running) : s.traceOf = none := by
  unfold State.traceOf
  split
  · exact absurd ‹_› hs
  · rfl

theorem traceOf_of_not_inRam (hout : ¬ InRam s s.pc 4) : s.traceOf = none := by
  unfold State.traceOf
  rw [fetch_of_not_inRam hout]
  split <;> rfl

theorem traceOf_of_decode_error {e : DecodeReject} (hram : InRam s s.pc 4)
    (hd : decodeWord s.cfg.hasMulw (wordAtPc s) = .error e) : s.traceOf = none := by
  unfold State.traceOf
  rw [fetch_of_inRam hram]
  dsimp only
  rw [hd]
  split <;> rfl

end Trace

/-- Settles O60: the hook reads the same fetch and decoding as the step, and gets nothing where either faults. -/
theorem traceNamesTheInstructionStepRuns : Obligations.TraceNamesTheInstructionStepRuns := by
  intro s
  constructor
  · intro i hs hram hd
    exact ⟨traceOf_of_decode_ok hs hram hd, step_of_decode_ok hs (fetch_of_inRam hram) hd⟩
  rintro (hs | hout | ⟨e, hd⟩)
  · exact traceOf_of_not_running hs
  · exact traceOf_of_not_inRam hout
  · by_cases hram : InRam s s.pc 4
    · exact traceOf_of_decode_error hram hd
    · exact traceOf_of_not_inRam hram

/-! ### Words placed where the next fetch reads them (20_memory.md R51, R54) -/

/-- The bytes of an instruction as the table numbers them are the low bytes of its word. -/
theorem tableBytes_toNat (w : InstWord) : tableBytes 32 w.toNat = leBytes 4 (w.setWidth 64) := by
  have hword : BitVec.ofNat 32 (w.toNat % 2 ^ 32) = w := by
    rw [Nat.mod_eq_of_lt w.isLt, BitVec.ofNat_toNat, BitVec.setWidth_eq]
  rw [tableBytes, hword]
  refine List.ext_getElem (by simp) fun k htable hbytes => ?_
  rw [leBytes_length] at hbytes
  rw [leBytes_getElem, BitVec.extractLsb'_setWidth_of_le (by omega)]
  interval_cases k <;> rfl

section Placed

variable {s : State}

/-- Where pc lies in RAM a placed word is written at pc. -/
theorem withFetchWord_of_inRam (w : InstWord) (hram : InRam s s.pc 4) :
    s.withFetchWord 32 w.toNat = s.setMem (writeCells s.mem (offsetOf s s.pc) (leBytes 4 (w.setWidth 64))) := by
  obtain ⟨hbase, hend⟩ := hram
  have hfits : (tableBytes 32 w.toNat).length ≤ s.cfg.ramSize - (s.pc.toNat - s.cfg.ramBase.toNat) := by
    rw [tableBytes_toNat, leBytes_length]
    omega
  rw [State.withFetchWord, State.placeAtPc, if_neg (Nat.not_lt.mpr hbase)]
  dsimp only
  rw [List.take_of_length_le hfits, tableBytes_toNat]
  rfl

end Placed

/-- Settles O8: the fetch answers the word placed, which decodes to the instruction it encodes. -/
theorem stepRunsThePlacedInstruction : Obligations.StepRunsThePlacedInstruction := by
  intro s i hwf hs hram hi
  rw [withFetchWord_of_inRam _ hram]
  refine step_of_decode_ok (w := encode i) hs ?_ (decodeOfEncodeIsIdentity _ i hi)
  rw [fetch_of_written _ hwf hram]
  simp

/-- Settles O32: `sw` writes the low word of x[rs2] at the pc the next fetch reads, and leaves that pc. -/
theorem storeIsSeenByTheNextFetch : Obligations.StoreIsSeenByTheNextFetch := by
  intro s t rs2 rs1 imm hs h haddr
  rcases store_cases s 4 rs2 rs1 imm with ⟨r, -, hfault⟩ | ⟨u, hw, hnext⟩
  · cases hfault.symm.trans h
  · cases hnext.symm.trans h
    rw [haddr] at hw
    obtain ⟨hbase, hend, rfl⟩ := memWrite_eq_ok _ _ _ _ _ (by decide) hw
    exact fetch_of_written _ hs ⟨hbase, hend⟩

/-! ### The run under fuel (R162, R163; 70_reset_and_hazards.md R188) -/

section Run

variable {s t left : State} {r : FaultReason}

theorem run_succ_of_running (h : step s = .next t) (ht : t.status = .running) (n : Nat) : s.run (n + 1) = t.run n := by
  have hnot : t.status ≠ .halted := by rw [ht]; decide
  rw [State.run, h]
  exact if_neg hnot

theorem run_succ_of_halted (h : step s = .next t) (ht : t.status = .halted) (n : Nat) : s.run (n + 1) = .halted t := by
  rw [State.run, h]
  exact if_pos ht

theorem run_succ_of_not_running (hs : s.status ≠ .running) (n : Nat) : s.run (n + 1) = .noTransition s := by
  rw [State.run, step_of_not_running hs]

/-- How a run of a Running core ends: halted at pc zero, in a fault its state records, or still Running. -/
def RunEnd.Proper : RunEnd → Prop
  | .halted t => t.pc = 0#64 ∧ t.status = .halted
  | .faulted r left => left.status = .faulted r
  | .noTransition _ => False
  | .outOfFuel t => t.status = .running

/-- Each step halts, faults or leaves a Running core with less fuel. -/
theorem run_proper (n : Nat) : ∀ s : State, s.status = .running → (s.run n).Proper := by
  induction n with
  | zero => exact fun s hs => hs
  | succ n ih =>
    intro s hs
    cases h : step s with
    | next t =>
      rcases step_next_status h with ⟨hpc, ht⟩ | ⟨-, ht⟩
      · rw [run_succ_of_halted h ht]
        exact ⟨hpc, ht⟩
      · rw [run_succ_of_running h ht]
        exact ih t ht
    | fault f =>
      cases f with
      | raised r left =>
        rw [run_succ_of_raised h]
        obtain ⟨-, ⟨-, -, rfl⟩ | ⟨-, rfl, -⟩⟩ := step_eq_raised h <;> rfl
      | notRunning left => exact absurd hs (step_eq_notRunning h)
    | refused why => exact absurd h (step_ne_refused s why)

end Run

/-- A core that is not Running takes no step: its run has no transition, or no fuel to ask for one. -/
theorem run_of_not_running {s : State} (hs : s.status ≠ .running) (n : Nat) :
    s.run n = .outOfFuel s ∨ s.run n = .noTransition s := by
  cases n with
  | zero => exact .inl rfl
  | succ n => exact .inr (run_succ_of_not_running hs n)

/-- Settles O59: the first four clauses are the run's equations; the others say how the run of a Running core ends
(`run_proper`), and any other core's run ends in neither of these ways (`run_of_not_running`). -/
theorem runsEndOnlyHaltedOrFaulted : Obligations.RunsEndOnlyHaltedOrFaulted := by
  intro n s
  refine ⟨fun t h ht => run_succ_of_running h ht n, fun t h ht => run_succ_of_halted h ht n,
    fun r left h => run_succ_of_raised h n, fun hs => run_succ_of_not_running hs n, fun t h => ?halted,
    fun r left h => ?faulted, fun hs => ⟨fun left h => ?noTransition, fun t h => ?outOfFuel⟩⟩
  case halted | faulted =>
    by_cases hs : s.status = .running
    · have hproper := run_proper n s hs
      rwa [h] at hproper
    · rcases run_of_not_running hs n with hrun | hrun <;> cases h.symm.trans hrun
  case noTransition | outOfFuel =>
    have hproper := run_proper n s hs
    rwa [h] at hproper

end Sys2Proof.Machine

/-! ## What no behaviour depends on (10_state.md R30; 60_exceptions.md R176): the mode and the floating-point registers

A change of the two parts of the state that no meaning reads passes through every operation, so it can be made before a
step or after it. Only the returns from a trap set the mode, whatever it was. -/

namespace Sys2Proof.Machine

/-- The state with its floating-point registers and its mode changed. -/
def State.alter (φ : Vector Word 32 → Vector Word 32) (μ : Mode → Mode) (s : State) : State :=
  { s with f := φ s.f, mode := μ s.mode }

section Alter

variable (φ : Vector Word 32 → Vector Word 32) (μ : Mode → Mode) (s : State)

/-! ### The operations under the change -/

theorem alter_writeX (r : RegIx) (v : Word) : (s.alter φ μ).writeX r v = (s.writeX r v).alter φ μ := by
  unfold State.writeX
  split <;> rfl

theorem alter_csrWrite (a : CsrAddr) (v : Word) : (s.alter φ μ).csrWrite a v = (s.csrWrite a v).alter φ μ := by
  unfold State.csrWrite
  split <;> rfl

theorem alter_memRead (a : Word) (n : Nat) : (s.alter φ μ).memRead a n = s.memRead a n := rfl

theorem alter_memWrite (a : Word) (n : Nat) (v : Word) :
    (s.alter φ μ).memWrite a n v = (s.memWrite a n v).map (State.alter φ μ) := by
  unfold State.memWrite State.busStore
  split
  · change (match s.busOffset a (8 * n / 8) with | .ok o => _ | .error r => _) = _
    cases s.busOffset a (8 * n / 8) <;> rfl
  · rfl

theorem alter_raise (r : FaultReason) : (s.alter φ μ).raise r = mapOutcome (State.alter φ μ) (s.raise r) := rfl

/-! ### The families under the change -/

theorem alter_register (rd : RegIx) (v : Word) :
    .next ((s.alter φ μ).writeX rd v) = mapOutcome (State.alter φ μ) (.next (s.writeX rd v)) :=
  congrArg _ (alter_writeX φ μ s rd v)

theorem alter_load (n : Nat) (extend : Word → Word) (rd rs1 : RegIx) (imm : BitVec 12) :
    (s.alter φ μ).load n extend rd rs1 imm = mapOutcome (State.alter φ μ) (s.load n extend rd rs1 imm) := by
  have haddr : (s.alter φ μ).loadAddr rs1 imm = s.loadAddr rs1 imm := rfl
  rcases load_cases s n extend rd rs1 imm with ⟨r, hread, h⟩ | ⟨v, hread, h⟩ <;>
    rw [h, State.load, haddr, alter_memRead, hread]
  · rfl
  · exact alter_register φ μ s rd (extend v)

theorem alter_store (n : Nat) (rs2 rs1 : RegIx) (imm : BitVec 12) :
    (s.alter φ μ).store n rs2 rs1 imm = mapOutcome (State.alter φ μ) (s.store n rs2 rs1 imm) := by
  have haddr : (s.alter φ μ).storeAddr rs1 imm = s.storeAddr rs1 imm := rfl
  have hvalue : (s.alter φ μ).readX rs2 = s.readX rs2 := rfl
  rcases store_cases s n rs2 rs1 imm with ⟨r, hwrite, h⟩ | ⟨t, hwrite, h⟩ <;>
    rw [h, State.store, haddr, hvalue, alter_memWrite, hwrite] <;> rfl

theorem alter_amo (n : Nat) (combine : Word → Word → Word) (extend : Word → Word) (rd rs2 rs1 : RegIx)
    (hn : n = 1 ∨ n = 2 ∨ n = 4 ∨ n = 8) : (s.alter φ μ).amo n combine extend rd rs2 rs1 =
      mapOutcome (State.alter φ μ) (s.amo n combine extend rd rs2 rs1) := by
  have haddr : (s.alter φ μ).amoAddr rs1 = s.amoAddr rs1 := rfl
  have hvalue : (s.alter φ μ).readX rs2 = s.readX rs2 := rfl
  rcases amo_cases s n combine extend rd rs2 rs1 hn with ⟨r, hread, h⟩ | ⟨old, t, hread, hwrite, h⟩ <;>
    rw [h, State.amo, haddr, alter_memRead, hread]
  · rfl
  · dsimp only
    rw [hvalue, alter_memWrite, hwrite]
    exact alter_register φ μ t rd (extend old)

theorem alter_branch (taken : Bool) (imm : BitVec 13) :
    (s.alter φ μ).branch taken imm = mapOutcome (State.alter φ μ) (s.branch taken imm) := by
  cases taken <;> rfl

theorem alter_csrAndRegister (a : CsrAddr) (v : Word) (rd : RegIx) (u : Word) :
    .next (((s.alter φ μ).csrWrite a v).writeX rd u) =
      mapOutcome (State.alter φ μ) (.next ((s.csrWrite a v).writeX rd u)) := by
  rw [alter_csrWrite]
  exact alter_register φ μ (s.csrWrite a v) rd u

theorem alter_csrRegister (new : Word → Word → Word) (rd : RegIx) (csr : CsrAddr) (rs1 : RegIx) :
    (s.alter φ μ).csrRegister new rd csr rs1 = mapOutcome (State.alter φ μ) (s.csrRegister new rd csr rs1) := by
  have hlinked (v : Word) : ((s.alter φ μ).writeX rd v).readX rs1 = (s.writeX rd v).readX rs1 := by
    rw [alter_writeX]
    rfl
  rw [csrRegister_cases, csrRegister_cases, hlinked]
  exact alter_csrAndRegister φ μ s csr _ rd _

theorem alter_link (rd : RegIx) (v target : Word) : .next (((s.alter φ μ).writeX rd v).setPc target) =
    mapOutcome (State.alter φ μ) (.next ((s.writeX rd v).setPc target)) := by
  rw [alter_writeX]
  rfl

theorem alter_jalr (rd rs1 : RegIx) (imm : BitVec 12) :
    execJalr rd rs1 imm (s.alter φ μ) = mapOutcome (State.alter φ μ) (execJalr rd rs1 imm s) := by
  have hlinked : ((s.alter φ μ).writeX rd s.pc).jalrTarget rs1 imm = (s.writeX rd s.pc).jalrTarget rs1 imm := by
    rw [alter_writeX]
    rfl
  change Host.Outcome.next (((s.alter φ μ).writeX rd s.pc).setPc (if s.cfg.sequentialLink
    then ((s.alter φ μ).writeX rd s.pc).jalrTarget rs1 imm else s.jalrTarget rs1 imm)) = _
  rw [hlinked]
  exact alter_link φ μ s rd s.pc _

/-- An instruction that is no return from a trap does to the changed state what it does to the state. -/
theorem alter_exec {i : Instr} (hsret : i ≠ .sret) (hmret : i ≠ .mret) :
    exec i (s.alter φ μ) = mapOutcome (State.alter φ μ) (exec i s) := by
  cases i
  case lb | lh | lw | ld | lbu | lhu | lwu => exact alter_load φ μ s ..
  case addi | slti | sltiu | xori | ori | andi | slli | srli | srai | addiw | slliw | srliw | sraiw | auipc | lui
      | add | sub | mul | sll | slt | sltu | xor | srl | sra | or | and | addw | subw | mulw | sllw | srlw | sraw =>
    exact alter_register φ μ s ..
  case sb | sh | sw | sd => exact alter_store φ μ s ..
  case amoaddW | amoswapW | amoaddD | amoswapD => exact alter_amo φ μ s _ _ _ _ _ _ (by decide)
  case beq | bne | blt | bge | bltu | bgeu => exact alter_branch φ μ s ..
  case jalr => exact alter_jalr φ μ s ..
  case jal => exact alter_link φ μ s ..
  case csrrw | csrrs | csrrc => exact alter_csrRegister φ μ s ..
  case csrrwi | csrrsi | csrrci => exact alter_csrAndRegister φ μ s ..
  case sret => exact absurd rfl hsret
  case mret => exact absurd rfl hmret
  case sfenceVma => rfl

theorem alter_trapReturn (target : Word) (m : Mode) (a : CsrAddr) (v : Word) :
    (s.alter φ μ).trapReturn target m a v = (s.trapReturn target m a v).alter φ id :=
  alter_csrWrite φ id ((s.setPc target).setMode m) a v

theorem alter_exec_sret : exec .sret (s.alter φ μ) = mapOutcome (State.alter φ id) (exec .sret s) :=
  congrArg _ (alter_trapReturn φ μ s ..)

/-- `mret` sets the mode where it returns, and leaves the changed one where it faults. -/
theorem alter_exec_mret : exec .mret (s.alter φ μ) = mapOutcome (State.alter φ id) (exec .mret s) ∨
    exec .mret (s.alter φ μ) = mapOutcome (State.alter φ μ) (exec .mret s) := by
  change execMret (s.alter φ μ) = mapOutcome (State.alter φ id) (execMret s) ∨
    execMret (s.alter φ μ) = mapOutcome (State.alter φ μ) (execMret s)
  cases hmode : mretMode s.cfg.mpp2Behaviour (s.csrRead 0x300#12) with
  | none =>
    rw [execMret_of_reserved hmode, execMret_of_reserved (s := s.alter φ μ) hmode]
    exact .inr (alter_raise φ μ s _)
  | some m =>
    rw [execMret_of_mode hmode, execMret_of_mode (s := s.alter φ μ) hmode]
    exact .inl (congrArg _ (alter_trapReturn φ μ s ..))

theorem haltCheck_mapOutcome_alter (o : Host.Outcome State Fault Refusal) :
    haltCheck (mapOutcome (State.alter φ μ) o) = mapOutcome (State.alter φ μ) (haltCheck o) := by
  cases o with
  | next t =>
    by_cases hpc : t.pc = 0#64 <;> simp [haltCheck, mapOutcome, State.alter, State.setStatus, hpc]
  | fault f => cases f <;> rfl
  | refused why => rfl

end Alter

/-! ### A step under the change

`ν` is what is compared of the mode, and does not see the change `μ`. -/

section Step

variable (φ : Vector Word 32 → Vector Word 32) {μ ν : Mode → Mode} (hν : ∀ m, ν (μ m) = ν m)

include hν

theorem alter_alter (s : State) : (s.alter φ μ).alter id ν = s.alter φ ν := by
  simp [State.alter, hν]

theorem mapOutcome_alter_alter (o : Host.Outcome State Fault Refusal) :
    mapOutcome (State.alter id ν) (mapOutcome (State.alter φ μ) o) = mapOutcome (State.alter φ ν) o := by
  rcases o with t | ⟨r, left⟩ | why <;> simp [mapOutcome, alter_alter φ hν]

/-- A return from a trap sets the mode whatever it was; every other instruction passes the change on. -/
theorem mapOutcome_exec_alter (i : Instr) (s : State) :
    mapOutcome (State.alter id ν) (exec i (s.alter φ μ)) = mapOutcome (State.alter φ ν) (exec i s) := by
  by_cases hsret : i = .sret
  · rw [hsret, alter_exec_sret, mapOutcome_alter_alter φ (μ := id) (fun _ => rfl)]
  by_cases hmret : i = .mret
  · rw [hmret]
    rcases alter_exec_mret φ μ s with h | h
    · rw [h, mapOutcome_alter_alter φ (μ := id) (fun _ => rfl)]
    · rw [h, mapOutcome_alter_alter φ hν]
  rw [alter_exec φ μ s hsret hmret, mapOutcome_alter_alter φ hν]

/-- The fetch and the decoder read neither part, and the halt check passes the change on. -/
theorem mapOutcome_step_alter (s : State) :
    mapOutcome (State.alter id ν) (step (s.alter φ μ)) = mapOutcome (State.alter φ ν) (step s) := by
  have hcase := step_cases s
  generalize ho : step s = o at hcase
  cases hcase with
  | stuck hs =>
    rw [step_of_not_running (s := s.alter φ μ) hs]
    simp [mapOutcome, alter_alter φ hν]
  | fetchFault r hs hf =>
    rw [step_of_fetch_error (s := s.alter φ μ) hs hf]
    exact mapOutcome_alter_alter φ hν (s.raise r)
  | decodeFault w e hs hf hd =>
    rw [step_of_decode_error (s := s.alter φ μ) hs hf hd]
    exact mapOutcome_alter_alter φ hν (s.preAdvance.raise (decodeFaultOf w))
  | executed w i hs hf hd =>
    have hpre : (s.alter φ μ).preAdvance = s.preAdvance.alter φ μ := rfl
    rw [step_of_decode_ok (s := s.alter φ μ) hs hf hd, hpre, ← haltCheck_mapOutcome_alter,
      mapOutcome_exec_alter φ hν, haltCheck_mapOutcome_alter]

end Step

theorem mapOutcome_alter_id (o : Host.Outcome State Fault Refusal) : mapOutcome (State.alter id id) o = o := by
  rcases o with t | ⟨r, left⟩ | why <;> rfl

/-! ### The statements -/

/-- Settles O27: setting the mode is a change that comparing all but the mode does not see. -/
theorem modeGatesNothing : Obligations.ModeGatesNothing := fun s m =>
  mapOutcome_step_alter (μ := fun _ => m) (ν := fun _ => .user) id (fun _ => rfl) s

/-- Settles O28: as O27, the registers changed and the whole state compared. -/
theorem fpRegistersAreNeverRead : Obligations.FpRegistersAreNeverRead := by
  intro s g
  have h := mapOutcome_step_alter (μ := id) (ν := id) (fun _ => g) (fun _ => rfl) s
  rwa [mapOutcome_alter_id] at h

end Sys2Proof.Machine
